-- ==== Sys2Proof/Word.lean ====
section
/-! DEFINITION. The words the line, the configuration memory and the counters use, and the group of four like things (channels, keys). -/

namespace Sys2Proof

/-- One character of a message, or one byte of the configuration image. -/
abbrev Byte := BitVec 8

/-- A field of two characters, high byte first; also a 16-bit counter. -/
abbrev Word16 := BitVec 16

/-- The number of a channel CH0..CH3, of a key KEY0..KEY3. -/
abbrev Num4 := Fin 4

/-- Four like things, one for each of CH0..CH3 or of KEY0..KEY3. -/
structure Four (α : Type) where
  c0 : α
  c1 : α
  c2 : α
  c3 : α
  deriving DecidableEq, Repr

/-- The member with number `i`. -/
def Four.get {α : Type} (f : Four α) (i : Num4) : α :=
  match i with
  | 0 => f.c0
  | 1 => f.c1
  | 2 => f.c2
  | 3 => f.c3

/-- `f` with the member of number `i` replaced. -/
def Four.set {α : Type} (f : Four α) (i : Num4) (a : α) : Four α :=
  match i with
  | 0 => { f with c0 := a }
  | 1 => { f with c1 := a }
  | 2 => { f with c2 := a }
  | 3 => { f with c3 := a }

/-- The same function applied to each member. -/
def Four.map {α β : Type} (g : α → β) (f : Four α) : Four β :=
  { c0 := g f.c0, c1 := g f.c1, c2 := g f.c2, c3 := g f.c3 }

/-- A function of the number, tabulated. -/
def Four.tabulate {α : Type} (g : Num4 → α) : Four α :=
  { c0 := g 0, c1 := g 1, c2 := g 2, c3 := g 3 }

/-- True when some member satisfies `p`. -/
def Four.any {α : Type} (p : α → Bool) (f : Four α) : Bool :=
  p f.c0 || p f.c1 || p f.c2 || p f.c3

/-- All four the same. -/
def Four.replicate {α : Type} (a : α) : Four α :=
  { c0 := a, c1 := a, c2 := a, c3 := a }

/-- The four numbers in order, 0 to 3. -/
def allFour : List Num4 := [0, 1, 2, 3]

end Sys2Proof
end

