-- ==== Sys2Proof/Config.lean ====
section
/-! DEFINITION. The fixed numbers of the part, and the free values: what the spec leaves open, as constants with no body. -/

namespace Sys2Proof

namespace Config

/-- R1: slots in a period. -/
def slots : Nat := 128

/-- R24: slots that must have passed since the previous period start before an edge is taken. -/
def edgeGuard : Nat := 96

/-- R55: records the inbound queue holds. -/
def queueLimit : Nat := 8

/-- R56: the hold latch clears when a removal leaves this many records or fewer. -/
def latchRelease : Nat := 4

/-- R103: the failure that abandons a transmit slot. -/
def attemptLimit : Nat := 16

/-- R105: periods of the PLACE cooldown after an abandon. -/
def cooldownPeriods : Nat := 8

/-- R110: periods of the join wait. -/
def joinWaitPeriods : Nat := 32

/-- R121: silence counters stop here. -/
def silenceLimit : Nat := 1020

/-- R170: the hold timer value of a forced release. -/
def holdTimerLimit : Nat := 4096

/-- R162: cycles of the internal oscillator for which a measurement first drives its pad low. -/
def dischargeCycles : Nat := 16

/-- R162: the largest count of a key measurement; an overflow measurement. -/
def countLimit : Nat := 4095

/-- R162: a measurement below this is short. -/
def shortBelow : Nat := 16

/-- R175: bytes of the configuration image. -/
def imageBytes : Nat := 64

/-- R41: the longest payload. -/
def payloadLimit : Nat := 18

/-- R85: claims a dump build holds at most. -/
def claimLimit : Nat := 120

/-- R83: roster entries a dump build holds at most. -/
def rosterLimit : Nat := 30

/-- Free value (R173, log entry 2): whether a RESETN pulse shorter than 1 µs is taken as a reset. -/
opaque shortResetTaken : Nat → Bool

/-- Free value (R94, log entry 3): the start byte carried by a release, which no rule states and no receiver uses. -/
opaque releaseStart : Nat → Byte

/-- Free value (R175, log entry 34): the level of CMOSI in a CCK cycle in which the node reads the memory. -/
opaque cmosiWhileReading : Nat → Nat → Bool

end Config

end Sys2Proof
end

