-- ==== Sys2Proof/Machine/Durations.lean ====
section
/-! DEFINITION. The durations the rules state, as functions of the configuration codes; no command takes time. -/

namespace Sys2Proof.Machine

/-- R1: the slot time in µs. -/
def slotMicros (slotCode : Nat) : Nat :=
  match slotCode with
  | 0 => 16
  | 1 => 32
  | _ => 64

/-- R1: the period length in µs. -/
def periodMicros (slotCode : Nat) : Nat := Config.slots * slotMicros slotCode

/-- R39: the bit time in µs. -/
def bitMicros (rateCode : Nat) : Nat :=
  match rateCode with
  | 0 => 10
  | 1 => 4
  | _ => 2

/-- R41: bit times from the start bit to the end of the HOLD slot of a message with `n` payload characters. -/
def messageBits (n : Nat) : Nat := (4 + n + 2) * 10 + 2

/-- R177: 640 bit times fit within one period. -/
def validPair (rateCode slotCode : Nat) : Bool :=
  rateCode ≤ 2 && slotCode ≤ 2 && 640 * bitMicros rateCode ≤ periodMicros slotCode

/-- R162: cycles of the 16 MHz oscillator a key measurement takes: the discharge, then `count` cycles of the modulation
clock of divider code `code`. -/
def measurementCycles (code count : Nat) : Nat := Config.dischargeCycles + count * 2 ^ code

/-- R175: cycles of the 16 MHz oscillator in one CCK cycle. -/
def cckCycles : Nat := 16

/-- R175: CCK cycles of the read command and the address. -/
def commandCycles : Nat := 8 + 16

/-- R175: CCK cycles of the configuration transaction: command, address and the bytes of the image. -/
def transactionCycles : Nat := commandCycles + Config.imageBytes * 8

/-- R175: the 24 bits the node sends: the read command 03h and address 0, most significant first. -/
def transactionCommand : BitVec 24 := 0x030000#24

end Sys2Proof.Machine
end

