-- ==== Sys2Proof/Syntax.lean ====
section
/-! DEFINITION. The commands: one constructor per row of spec/opcode_table.json, with what the outside gives at that event. -/

/-- R107: the station states. -/
inductive Sys2Proof.Machine.StationState where
  | loading
  | joinSend
  | joinWait
  | foundSend
  | dumpReceive
  | run
  | halted
  deriving DecidableEq, Repr

namespace Sys2Proof

/-- R173: what caused a cold reset. `shortPulse` is a RESETN low of less than 1 µs, which the part may take or not. -/
inductive ResetCause where
  | powerOn
  | resetn
  | shortPulse
  deriving DecidableEq, Repr

/-- R23, R24: how a period start comes about: the node's own end of count, or another station's edge on SLN. -/
inductive StartSource where
  | endOfCount
  | slnEdge
  deriving DecidableEq, Repr

/-- R39: one character as this station read it: its eight data bits, and whether its stop bit read recessive. -/
structure ReadChar where
  value : Byte
  stopRecessive : Bool
  deriving DecidableEq, Repr

/-- R50, R53: what this station decided the trailer of a message by. `errorState` is its state when the last stop bit had been
read. The rest stood at the start of the HOLD slot: its state, whether the closing part of its dump had been accepted (R54),
whether its inbound queue held 8 records, and whether its hold latch was set. -/
structure Trailer where
  errorState : Machine.StationState
  holdState : Machine.StationState
  closing : Bool
  full : Bool
  latched : Bool
  deriving DecidableEq, Repr

/-- A message as this station read it, up to the end of its HOLD slot: header, payload and check characters (R41);
whether this station took a period start between its start bit and the end of its HOLD slot (R55); and what its trailer was
decided by, `none` when no event of this node fell between the last stop bit and the end of the HOLD slot (R50). -/
structure Reception where
  chars : List ReadChar
  boundary : Bool
  trailer : Option Trailer
  deriving DecidableEq, Repr

/-- R103, R45: the two ways an attempt of the node's own fails: in the trailer (what the other stations pulled in the
ERROR slot and in the HOLD slot), or by breaking off. -/
inductive FailureEvent where
  | trailer (m : Reception) (othersError othersHold : Bool)
  | breakOff
  deriving DecidableEq, Repr

/-- The commands, in the order of the table. A command is one event at the node. -/
inductive Instr where
  /-- COLD_RESET (R173). -/
  | coldReset (cause : ResetCause)
  /-- CONFIGURATION_LOADER_START (R174): the level of ID4..ID0, ID4 most significant. -/
  | configurationLoaderStart (straps : BitVec 5)
  /-- CONFIGURATION_READ_COMPLETE (R175, R176): what the memory drove on CMISO at the rising edge of each CCK cycle of the
  transaction, `none` where it drove nothing. -/
  | configurationReadComplete (memory : List (Option Bool))
  /-- PERIOD_END_OF_COUNT (R23). -/
  | periodEndOfCount
  /-- SLN_FALLING_EDGE (R24): a falling edge the node did not make. -/
  | slnFallingEdge
  /-- SLOT_BOUNDARY (R22). -/
  | slotBoundary
  /-- LINE_IDLE (R40). -/
  | lineIdle
  /-- ATTEMPT_START (R93). -/
  | attemptStart
  /-- ARBITRATION_LOSS (R45): in data bit `bit` (7..0) of character `char` (1 is the first header character). -/
  | arbitrationLoss (char bit : Nat)
  /-- SENDER_BREAK_OFF (R45). -/
  | senderBreakOff
  /-- MESSAGE_ACCEPTED (R51). -/
  | messageAccepted (m : Reception)
  /-- MESSAGE_FAILED (R51): with what the other stations pulled in the two trailer slots. -/
  | messageFailed (m : Reception) (othersError othersHold : Bool)
  /-- MESSAGE_CUT_SHORT (R44). -/
  | messageCutShort
  /-- RUN_LOCK_TIMEOUT (R60). -/
  | runLockTimeout
  /-- ABANDON (R105): the failure that is a slot's sixteenth. -/
  | abandon (f : FailureEvent)
  /-- APPLY_PLACE (R65). -/
  | applyPlace
  /-- APPLY_JOIN (R71). -/
  | applyJoin
  /-- APPLY_EVICT (R72). -/
  | applyEvict
  /-- APPLY_SHED (R75). -/
  | applyShed
  /-- APPLY_DUMP_OPEN (R78). -/
  | applyDumpOpen
  /-- APPLY_DUMP_PART (R83). -/
  | applyDumpPart
  /-- APPLY_PRESENCE (R79). -/
  | applyPresence
  /-- APPLY_LEVEL (R135). -/
  | applyLevel
  /-- APPLY_SCENE (R138). -/
  | applyScene
  /-- APPLY_SCENE_MORE (R139). -/
  | applySceneMore
  /-- APPLY_QUERY (R100). -/
  | applyQuery
  /-- DISCARD_RECORD (R62). -/
  | discardRecord
  /-- ADOPTION_WAIT_EXPIRY (R28): the period start at which the adoption wait runs out. -/
  | adoptionWaitExpiry (src : StartSource)
  /-- JOIN_WAIT_EXPIRY (R111): the period start at which the join wait runs out. -/
  | joinWaitExpiry (src : StartSource)
  /-- PRESENCE_COUNTDOWN_EXPIRY (R120): the period start at which the presence countdown reaches 0. -/
  | presenceCountdownExpiry (src : StartSource)
  /-- SILENCE_LIMIT (R122): the period start at which this station's silence counter reaches 4P. -/
  | silenceLimit (station : Nat) (src : StartSource)
  /-- PLACE_COOLDOWN_EXPIRY (R105): the period start at which the PLACE cooldown reaches 0. -/
  | placeCooldownExpiry (src : StartSource)
  /-- MEASUREMENT_END (R162): the key under measurement and the count reached. -/
  | measurementEnd (key : Num4) (value : BitVec 12)
  /-- HOLD_TIME_REACHED (R168): the period start at which this key's hold timer reaches H. -/
  | holdTimeReached (key : Num4) (src : StartSource)
  /-- HOLD_STEP (R168): a period start at which this key's hold timer reaches H + 4, H + 8 and so on. -/
  | holdStep (key : Num4) (src : StartSource)
  /-- FORCED_RELEASE (R170): the period start at which this key's hold timer reaches 4096. -/
  | forcedRelease (key : Num4) (src : StartSource)
  /-- SENSE_SAMPLE (R155): the sample point of this channel, and the level of SNSn there. -/
  | senseSample (channel : Num4) (high : Bool)
  deriving DecidableEq, Repr

end Sys2Proof
end

