-- ==== Sys2Proof/Machine/Message.lean ====
section
/-! DEFINITION. Messages of the share line by their fields (R42, Chapter 11), and the records the inbound queue holds (R55). -/

namespace Sys2Proof.Machine

/-- R181: the report a QUERY asks for. -/
inductive What where
  | node
  | channels
  deriving DecidableEq, Repr

/-- R133: the four operations on a target. -/
inductive LevelOp where
  | set
  | toggle
  | stepUp
  | stepDown
  deriving DecidableEq, Repr

/-- One entry of a PLACE, or one claim of a claim part, as carried (11.3). Length 0 in a PLACE is a release. -/
structure PlaceEntry where
  channel : Num4
  cls : Num4
  units : Byte
  start : Byte
  len : Byte
  deriving DecidableEq, Repr

/-- A station and an incarnation as carried: a pair of an EVICT, or an entry of a roster part. -/
structure Pair where
  station : Byte
  incarnation : Byte
  deriving DecidableEq, Repr

/-- R137: the scene cursor; also the fields of a cursor part. -/
structure Cursor where
  source : Byte
  first : Byte
  last : Byte
  next : Byte
  valid : Bool
  complete : Bool
  deriving DecidableEq, Repr

/-- R98: the fields of a DUMP-OPEN. -/
structure DumpOpen where
  period : Byte
  lastE : Byte
  shed : Num4
  stateCount : Word16
  digest : Word16
  rosterCount : Byte
  claimCount : Byte
  deriving DecidableEq, Repr

/-- R99: the three kinds of dump part. -/
inductive DumpPart where
  | roster (entries : List Pair)
  | cursor (c : Cursor)
  | claims (station : Nat) (entries : List PlaceEntry)
  deriving DecidableEq, Repr

/-- The payload of each of the 13 kinds, by its fields (11.3). -/
inductive Payload where
  | join (e : Byte) (digest : Word16)
  | found (period : Byte) (digest : Word16)
  | dumpOpen (f : DumpOpen)
  | dumpPart (p : DumpPart)
  | evict (e : Byte) (pairs : List Pair)
  | place (e : Byte) (entries : List PlaceEntry)
  | shed (e : Byte) (level : Num4)
  | presence (period : Byte) (stateCount check : Word16) (incarnation : Byte)
  | level (op : LevelOp) (mask : BitVec 4) (value : Byte)
  | scene (first last : Byte) (levels : List Byte)
  | sceneMore (levels : List Byte)
  | query (what : What)
  | report (what : What) (body : List Byte)
  deriving DecidableEq, Repr

/-- A message: header fields and payload (R42). The check is computed (R43). -/
structure Message where
  priority : Num4
  lock : Bool
  source : Nat
  dest : Nat
  payload : Payload
  deriving DecidableEq, Repr

/-- R55: a record of the inbound queue. Its kind and its e are those of the payload. -/
structure Record where
  source : Nat
  lock : Bool
  stamp : Byte
  boundary : Bool
  payload : Payload
  deriving DecidableEq, Repr

end Sys2Proof.Machine
end

