-- ==== Sys2Proof/Machine/Operands.lean ====
section
/-! DEFINITION. The operand of the message events: the characters of a message, built from its fields and read into them
(R41 to R43, Chapter 11), and the form errors of R47, R184, R185 and R186. -/

namespace Sys2Proof.Machine

/-! ## Bytes and the weighted sum -/

/-- The high character of a two-character field. -/
def hiByte (w : Word16) : Byte := BitVec.ofNat 8 (w.toNat / 256)

/-- The low character of a two-character field. -/
def loByte (w : Word16) : Byte := BitVec.ofNat 8 w.toNat

/-- Chapter 11: a field wider than one byte, high byte first. -/
def wordOf (hi lo : Byte) : Word16 := BitVec.ofNat 16 (hi.toNat * 256 + lo.toNat)

/-- Each value times its position, the first at position `p`. -/
def weightedFrom : Nat → List Byte → Nat
  | _, [] => 0
  | p, x :: xs => p * x.toNat + weightedFrom (p + 1) xs

/-- R43, R176, R179: the sum, mod 65536, of each value multiplied by its position counted from 1. -/
def weightedSum (xs : List Byte) : Word16 := BitVec.ofNat 16 (weightedFrom 1 xs)

def boolByte (b : Bool) : Nat := if b then 1 else 0

/-! ## Building a message's characters -/

/-- R42: the number of a kind. -/
def Payload.kind : Payload → Nat
  | .join .. => 1
  | .found .. => 2
  | .dumpOpen .. => 3
  | .dumpPart .. => 4
  | .evict .. => 5
  | .place .. => 6
  | .shed .. => 7
  | .presence .. => 8
  | .level .. => 9
  | .scene .. => 10
  | .sceneMore .. => 11
  | .query .. => 12
  | .report .. => 13

/-- R30, R42: the e-stamp of a state-changing kind; the other kinds carry none. -/
def Payload.e : Payload → Option Byte
  | .join e _ => some e
  | .evict e _ => some e
  | .place e _ => some e
  | .shed e _ => some e
  | .found .. => none
  | .dumpOpen .. => none
  | .dumpPart .. => none
  | .presence .. => none
  | .level .. => none
  | .scene .. => none
  | .sceneMore .. => none
  | .query .. => none
  | .report .. => none

/-- 11.3: the number of an operation of LEVEL. -/
def LevelOp.code : LevelOp → Nat
  | .set => 0
  | .toggle => 1
  | .stepUp => 2
  | .stepDown => 3

/-- 11.3: the number of a report. -/
def What.code : What → Byte
  | .node => 0
  | .channels => 1

/-- 11.3: the four characters of a PLACE entry or a claim. -/
def PlaceEntry.bytes (p : PlaceEntry) : List Byte :=
  [BitVec.ofNat 8 (p.channel.val * 4 + p.cls.val), p.units, p.start, p.len]

/-- 11.3: the two characters of a pair or a roster entry. -/
def Pair.bytes (p : Pair) : List Byte := [p.station, p.incarnation]

/-- 11.3: the payload characters after the part type. -/
def DumpPart.bytes : DumpPart → List Byte
  | .roster es => 1 :: es.flatMap Pair.bytes
  | .cursor c =>
    [2, c.source, c.first, c.last, c.next, BitVec.ofNat 8 (boolByte c.valid + 2 * boolByte c.complete)]
  | .claims st es => BitVec.ofNat 8 (st * 8 + 3) :: es.flatMap PlaceEntry.bytes

/-- 11.3: the payload characters of a message. -/
def Payload.bytes : Payload → List Byte
  | .join e d => [e, hiByte d, loByte d]
  | .found p d => [p, hiByte d, loByte d]
  | .dumpOpen f =>
    [f.period, f.lastE, BitVec.ofNat 8 f.shed.val, hiByte f.stateCount, loByte f.stateCount, hiByte f.digest,
      loByte f.digest, f.rosterCount, f.claimCount]
  | .dumpPart p => p.bytes
  | .evict e ps => e :: ps.flatMap Pair.bytes
  | .place e es => e :: es.flatMap PlaceEntry.bytes
  | .shed e l => [e, BitVec.ofNat 8 l.val]
  | .presence p n c i => [p, hiByte n, loByte n, hiByte c, loByte c, i]
  | .level op m v => [BitVec.ofNat 8 (op.code * 16 + m.toNat), v]
  | .scene f l ls => f :: l :: ls
  | .sceneMore ls => ls
  | .query w => [w.code]
  | .report w b => w.code :: b

/-- R42, 11.2: the four header characters. -/
def Message.header (m : Message) : List Byte :=
  [BitVec.ofNat 8 (m.priority.val * 64 + m.payload.kind * 2 + boolByte m.lock), BitVec.ofNat 8 m.source,
    BitVec.ofNat 8 m.dest, BitVec.ofNat 8 m.payload.bytes.length]

/-- R93: the whole message: header, payload and check. -/
def Message.chars (m : Message) : List Byte :=
  let body := m.header ++ m.payload.bytes
  let c := weightedSum body
  body ++ [hiByte c, loByte c]

/-- R39, 11.1: the ten bit times of a character: start bit, data bits 7 to 0, stop bit; true is recessive. -/
def charBits (c : Byte) : List Bool := false :: ((List.range 8).map fun i => c.getLsbD (7 - i)) ++ [true]

/-- R39, R40: the bit times of a message that a D4 sends, its characters back to back. -/
def Message.bits (m : Message) : List Bool := m.chars.flatMap charBits

/-! ## Reading a payload -/

/-- Entries of two characters; none when a character is left over. -/
def readPairs : List Byte → Option (List Pair)
  | [] => some []
  | [_] => none
  | a :: b :: rest => (readPairs rest).map ({ station := a, incarnation := b } :: ·)

/-- One entry of four characters; none when the upper bits of its first are set (R185). -/
def readQuad (a b c d : Byte) : Option PlaceEntry :=
  if a.toNat < 16 then
    some { channel := Fin.ofNat 4 (a.toNat / 4), cls := Fin.ofNat 4 a.toNat, units := b, start := c, len := d }
  else none

/-- Entries of four characters; none when characters are left over or an entry is invalid. -/
def readQuads : List Byte → Option (List PlaceEntry)
  | [] => some []
  | a :: b :: c :: d :: rest =>
    match readQuad a b c d, readQuads rest with
    | some q, some qs => some (q :: qs)
    | _, _ => none
  | _ => none

/-- R185: the class and units that a claim, or a placing entry, may carry. -/
def PlaceEntry.claimOk (p : PlaceEntry) : Bool :=
  p.cls.val < 3 && 1 ≤ p.units.toNat && p.units.toNat ≤ 63

/-- R185: a PLACE entry; of a release only the upper bits of its first character are judged. -/
def PlaceEntry.placeOk (p : PlaceEntry) : Bool := p.len.toNat == 0 || p.claimOk

/-- R184, R185: a DUMP-PART by its type; `a` is the part type character. -/
def readDumpPart (a : Byte) (rest : List Byte) : Option DumpPart :=
  let station := a.toNat / 8
  if (a.toNat / 4) % 2 = 1 then none
  else if a.toNat % 4 = 1 then
    if station = 0 && !rest.isEmpty then (readPairs rest).map .roster else none
  else if a.toNat % 4 = 2 then
    match rest with
    | [s, f, l, n, fl] =>
      if station = 0 && fl.toNat < 4 then
        some (.cursor
          { source := s, first := f, last := l, next := n, valid := fl.toNat % 2 == 1, complete := fl.toNat / 2 == 1 })
      else none
    | _ => none
  else if a.toNat % 4 = 3 then
    if 1 ≤ station && station ≤ 30 && !rest.isEmpty then
      match readQuads rest with
      | some qs => if qs.all PlaceEntry.claimOk then some (.claims station qs) else none
      | none => none
    else none
  else none

/-- R186: an operation by its number. -/
def readOp : Nat → Option LevelOp
  | 0 => some .set
  | 1 => some .toggle
  | 2 => some .stepUp
  | 3 => some .stepDown
  | _ => none

/-- R186: the values an operation may carry. -/
def levelValueOk (op : LevelOp) (v : Nat) : Bool :=
  match op with
  | .set => v ≤ 128
  | .toggle => v ≤ 128
  | .stepUp => 1 ≤ v && v ≤ 128
  | .stepDown => 1 ≤ v && v ≤ 128

/-- R186: a LEVEL's two characters. -/
def readLevel (a v : Byte) : Option Payload :=
  match readOp (a.toNat / 16) with
  | some op => if levelValueOk op v.toNat then some (.level op (BitVec.ofNat 4 a.toNat) v) else none
  | none => none

/-- R184, R181: the two reports and their lengths. -/
def readReport (w : Byte) (body : List Byte) : Option Payload :=
  if w = 0 then if body.length = 15 then some (.report .node body) else none
  else if w = 1 then if body.length = 16 then some (.report .channels body) else none
  else none

/-- R184 to R186: the payload of a message of kind `kind`, from its payload characters (at most 18): none for a length the
kind does not admit, an invalid field value, or a kind that is none of the 13. -/
def readPayload (kind : Nat) (bs : List Byte) : Option Payload :=
  match kind, bs with
  | 1, [e, h, l] => some (.join e (wordOf h l))
  | 2, [p, h, l] => some (.found p (wordOf h l))
  | 3, [p, le, sh, ch, cl, dh, dl, r, c] =>
    if sh.toNat < 4 then
      some (.dumpOpen
        { period := p, lastE := le, shed := Fin.ofNat 4 sh.toNat, stateCount := wordOf ch cl, digest := wordOf dh dl,
          rosterCount := r, claimCount := c })
    else none
  | 4, t :: rest => (readDumpPart t rest).map .dumpPart
  | 5, e :: rest => if rest.isEmpty then none else (readPairs rest).map (.evict e)
  | 6, e :: rest =>
    if rest.isEmpty then none
    else
      match readQuads rest with
      | some qs => if qs.all PlaceEntry.placeOk then some (.place e qs) else none
      | none => none
  | 7, [e, l] => if l.toNat < 4 then some (.shed e (Fin.ofNat 4 l.toNat)) else none
  | 8, [p, nh, nl, ch, cl, i] => some (.presence p (wordOf nh nl) (wordOf ch cl) i)
  | 9, [a, v] => readLevel a v
  | 10, f :: l :: ls => some (.scene f l ls)
  | 11, l :: ls => if ls.length < 16 then some (.sceneMore (l :: ls)) else none
  | 12, [w] => if w = 0 then some (.query .node) else if w = 1 then some (.query .channels) else none
  | 13, w :: body => readReport w body
  | _, _ => none

/-! ## Reading a message -/

/-- R42: LEVEL, QUERY and REPORT name their destination; the other kinds are broadcast. -/
def Payload.broadcast : Payload → Bool
  | .level .. => false
  | .query .. => false
  | .report .. => false
  | .join .. => true
  | .found .. => true
  | .dumpOpen .. => true
  | .dumpPart .. => true
  | .evict .. => true
  | .place .. => true
  | .shed .. => true
  | .presence .. => true
  | .scene .. => true
  | .sceneMore .. => true

/-- R47: the destinations a kind may carry. -/
def Payload.destOk (p : Payload) (dest : Nat) : Bool :=
  match p with
  | .report .. => 1 ≤ dest && dest ≤ 30
  | p => if p.broadcast then dest == 0 else dest ≤ 30

/-- R41: how many characters a message has, from its length character; a length above 18 counts as 18. -/
def expectedChars (chars : List Byte) : Nat :=
  6 + min (chars.getD 3 0).toNat Config.payloadLimit

/-- R47: a message's fields from its characters; none when it has a form error that its characters show. -/
def readMessage (chars : List Byte) : Option Message :=
  match chars with
  | a :: src :: dst :: len :: rest =>
    if len.toNat ≤ Config.payloadLimit ∧ rest.length = len.toNat + 2 then
      let payload := rest.take len.toNat
      let c := weightedSum (a :: src :: dst :: len :: payload)
      if rest.drop len.toNat = [hiByte c, loByte c] ∧ 1 ≤ src.toNat ∧ src.toNat ≤ 30 then
        match readPayload ((a.toNat / 2) % 32) payload with
        | some p =>
          if p.destOk dst.toNat then
            some
              { priority := Fin.ofNat 4 (a.toNat / 64), lock := a.toNat % 2 == 1, source := src.toNat, dest := dst.toNat,
                payload := p }
          else none
        | none => none
      else none
    else none
  | _ => none

end Sys2Proof.Machine

namespace Sys2Proof

/-- The values of the characters read. -/
def Reception.values (m : Reception) : List Byte := m.chars.map (·.value)

/-- R41: the message reached its expected end: it has all its characters. -/
def Reception.complete (m : Reception) : Bool :=
  4 ≤ m.chars.length && m.chars.length == Machine.expectedChars m.values

/-- R48: the destination character reads exactly 31. -/
def Reception.toNobody (m : Reception) : Bool := m.values.getD 2 0 == 31

/-- R47: the message as this station judges its form: none is a form error. -/
def Reception.message (m : Reception) : Option Machine.Message :=
  if m.chars.all (·.stopRecessive) then Machine.readMessage m.values else none

end Sys2Proof
end

