-- ==== Sys2Proof/Machine/State.lean ====
section
/-! DEFINITION. The state of the node, block by block (00_scope.md section 3), its reset value, and the reasons a step can stop. -/

namespace Sys2Proof.Machine

/-- R129: the halt cause. -/
inductive HaltCause where
  | none
  | config
  | strap
  | mismatch
  | duplicate
  deriving DecidableEq, Repr

/-- R131: the channel states. -/
inductive ChannelState where
  | unused
  | dark
  | seeking
  | lit
  | dimmed
  | waiting
  | faulted
  deriving DecidableEq, Repr

/-- R160: the key states; `unset` is R172's "None" through LOADING. -/
inductive KeyState where
  | unset
  | disabled
  | calibrating
  | released
  | pressed
  | holding
  | faultOverflow
  | faultLow
  deriving DecidableEq, Repr

/-- R160: the direction of the next hold's steps. -/
inductive Ramp where
  | up
  | down
  deriving DecidableEq, Repr

/-- R153. -/
inductive Polarity where
  | activeHigh
  | activeLow
  deriving DecidableEq, Repr

/-- R153. -/
inductive DriveType where
  | pushPull
  | openDrain
  deriving DecidableEq, Repr

/-- R173, R174, R175: how far LOADING is. -/
inductive LoaderPhase where
  | waiting
  | reading
  | finished
  deriving DecidableEq, Repr

/-- R173, R175: CSN, CCK and CMOSI together: released to high impedance; in the read transaction (CSN low); or at rest
(CSN high, CCK and CMOSI low). -/
inductive MemoryPins where
  | released
  | transaction
  | atRest
  deriving DecidableEq, Repr

/-- A run of slots: start and length. -/
structure Placement where
  start : Nat
  len : Nat
  deriving DecidableEq, Repr

/-- R6: a claim entry. -/
structure Claim where
  station : Nat
  channel : Num4
  cls : Nat
  units : Nat
  start : Nat
  len : Nat
  deriving DecidableEq, Repr

/-- R11: a Roster entry. -/
structure Member where
  station : Nat
  incarnation : Byte
  deriving DecidableEq, Repr

/-- R5: the replica. -/
structure Replica where
  claims : List Claim
  slotMap : List Nat
  roster : List Member
  shed : Num4
  cursor : Cursor
  stateCount : Word16
  deriving DecidableEq, Repr

/-- R82: the phase of a dump build. -/
inductive BuildPhase where
  | roster
  | claims
  deriving DecidableEq, Repr

/-- R82: the dump build. `received` counts claim entries added or not (R86); `closing` says that the closing part has been
accepted (R54). -/
structure DumpBuild where
  source : Nat
  rosterCount : Nat
  claimCount : Nat
  shed : Num4
  stateCount : Word16
  phase : BuildPhase
  roster : List Member
  cursor : Option Cursor
  claims : List Claim
  occupancy : List Nat
  received : Nat
  spoiled : Bool
  closing : Bool
  deriving DecidableEq, Repr

/-- The placement engine: replica, held state check (R15), dump-owed flag (R64), dump build, divergence tally (R123) and
rejected-entry counter (R69). -/
structure Engine where
  replica : Replica
  heldCheck : Word16
  dumpOwed : Bool
  build : Option DumpBuild
  witnesses : List Nat
  mismatches : Byte
  rejected : Byte
  deriving DecidableEq, Repr

/-- R98: the snapshot a dump is sent from. -/
structure Snapshot where
  roster : List Member
  cursor : Cursor
  claims : List Claim
  shed : Num4
  stateCount : Word16
  lastE : Byte
  period : Byte
  deriving DecidableEq, Repr

/-- R90: a transmit slot's attempt count and held mark. -/
structure SlotCtl where
  attempts : Nat
  held : Bool
  deriving DecidableEq, Repr

/-- R90: which of the two the JOIN/FOUND slot holds. -/
inductive JoinFound where
  | join
  | found
  deriving DecidableEq, Repr

/-- R98, R99: a dump run of the node's own: the kept snapshot, and how many parts have been accepted. -/
structure DumpRun where
  snapshot : Snapshot
  position : Nat
  deriving DecidableEq, Repr

/-- R100: what the REPORT slot holds. -/
structure ReportRequest where
  querier : Nat
  what : What
  deriving DecidableEq, Repr

/-- R101: what a LEVEL slot holds. -/
structure LevelRequest where
  op : LevelOp
  value : Nat
  dest : Nat
  mask : BitVec 4
  deriving DecidableEq, Repr

/-- R101, R102: one key's LEVEL slot. -/
structure LevelSlot where
  ctl : SlotCtl
  content : Option LevelRequest
  followOn : Option LevelRequest
  deriving DecidableEq, Repr

/-- R90: the ten transmit slots. -/
structure TxSlots where
  joinFound : SlotCtl
  joinFoundHolds : Option JoinFound
  dump : SlotCtl
  dumpRun : Option DumpRun
  evict : SlotCtl
  place : SlotCtl
  cooldown : Nat
  presence : SlotCtl
  presenceWork : Bool
  report : SlotCtl
  reportHolds : Option ReportRequest
  reportFollowOn : Option ReportRequest
  level : Four LevelSlot
  deriving DecidableEq, Repr

/-- R90: the names of the ten slots. -/
inductive SlotId where
  | joinFound
  | dump
  | evict
  | place
  | presence
  | report
  | level (k : Num4)
  deriving DecidableEq, Repr

/-- R93: an attempt of the node's own on the line: its slot, the message built, the snapshot of a DUMP-OPEN (R98), and
whether the node has taken a period start since its start bit (R55). -/
structure Attempt where
  slot : SlotId
  message : Message
  snapshot : Option Snapshot
  crossed : Bool
  deriving DecidableEq, Repr

/-- The line interface (R38). `idle`: the line has been seen idle and nothing this station knows of has ended that (R40).
`heard`: the line has been seen idle since listening began (R38). -/
structure LineInterface where
  idle : Bool
  heard : Bool
  inbound : List Record
  holdLatch : Bool
  runOwner : Option Nat
  lastE : Byte
  attempt : Option Attempt
  restartPending : Bool
  slots : TxSlots
  errorsSignalled : Word16
  holdsSignalled : Word16
  abandoned : Byte
  deriving DecidableEq, Repr

/-- The period timer (R22). `started`: a period start has been taken since the timer started (R24). -/
structure PeriodTimer where
  slot : Nat
  period : Byte
  started : Bool
  slnPull : Bool
  adoptionWait : Nat
  deriving DecidableEq, Repr

/-- The configuration loader (R174, R179). -/
structure Loader where
  phase : LoaderPhase
  strap : Nat
  digest : Word16
  pins : MemoryPins
  deriving DecidableEq, Repr

/-- R176, R178: the line parameters taken from the image. -/
structure LineParams where
  rateCode : Nat
  slotCode : Nat
  guard : Nat
  budget : Nat
  presence : Nat
  deriving DecidableEq, Repr

/-- R130: a channel record. -/
structure Channel where
  units : Nat
  cls : Nat
  defaultLevel : Nat
  target : Nat
  lastLit : Nat
  state : ChannelState
  owed : Bool
  revised : Bool
  deriving DecidableEq, Repr

/-- R36: an entry of the Pending Change Queue. -/
structure PendingChange where
  channel : Num4
  e : Byte
  placement : Option Placement
  deriving DecidableEq, Repr

/-- What the output stage holds for one channel: its drive configuration (R153), Drive Plan placement (R151), low count
(R155) and fault hold flag (R154). -/
structure OutChannel where
  polarity : Polarity
  drive : DriveType
  senseEnable : Bool
  plan : Option Placement
  lowCount : Nat
  faultHold : Bool
  deriving DecidableEq, Repr

/-- The output stage (R151 to R159). `configured`: the drive configuration has been taken (R153). -/
structure OutputStage where
  pending : List PendingChange
  blank : Bool
  late : Word16
  configured : Bool
  chan : Four OutChannel
  deriving DecidableEq, Repr

/-- R121: the silence counter of one station. -/
structure Silence where
  station : Nat
  count : Nat
  deriving DecidableEq, Repr

/-- The station controller (R107). -/
structure Controller where
  station : StationState
  ownIncarnation : Byte
  joinWait : Nat
  presence : Nat
  silence : List Silence
  haltCause : HaltCause
  rejoins : Byte
  deriving DecidableEq, Repr

/-- R160: a key record. -/
structure Key where
  enable : Bool
  bound : Nat
  mask : BitVec 4
  threshold : Nat
  divider : Nat
  state : KeyState
  baseline : Nat
  last : Nat
  calCount : Nat
  calSum : Nat
  touchRun : Nat
  noTouchRun : Nat
  tracking : Nat
  overflowRun : Nat
  shortRun : Nat
  hold : Nat
  ramp : Ramp
  deriving DecidableEq, Repr

/-- The touch key unit (R160, R161). `scan`: the key under measurement in the round under way, if one is. -/
structure TouchUnit where
  key : Four Key
  holdTime : Nat
  stepSize : Nat
  scan : Option Num4
  deriving DecidableEq, Repr

/-- The node. `pending` is the queue of commands not yet taken; `freeIndex` is the model's own counter of free values
used (log entry 14). -/
structure State where
  pending : List Instr
  freeIndex : Nat
  loader : Loader
  cfg : LineParams
  timer : PeriodTimer
  line : LineInterface
  engine : Engine
  chans : Four Channel
  out : OutputStage
  ctl : Controller
  touch : TouchUnit
  deriving DecidableEq, Repr

/-- No command of this block faults: the spec names no event that stops the part without a state of its own (a halt is
the station state HALTED). The type has no constructor, so nobody raises it. -/
inductive Fault where
  deriving DecidableEq, Repr

/-- Why a command is refused. -/
inductive Refusal where
  /-- Raised by `exec` alone, for a command that has no meaning yet; safe. No arm raises it now. -/
  | notModelled (mnemonic : String)
  deriving DecidableEq, Repr

/-- An attempt count of 0 and a clear held mark. -/
def SlotCtl.clear : SlotCtl := { attempts := 0, held := false }

/-- R106: every transmit slot empty. -/
def TxSlots.empty : TxSlots :=
  { joinFound := .clear, joinFoundHolds := none, dump := .clear, dumpRun := none, evict := .clear, place := .clear,
    cooldown := 0, presence := .clear, presenceWork := false, report := .clear, reportHolds := none,
    reportFollowOn := none, level := .replicate { ctl := .clear, content := none, followOn := none } }

/-- R137: an invalid cursor with all fields 0, the form R99 sends for an invalid cursor. -/
def Cursor.invalid : Cursor :=
  { source := 0, first := 0, last := 0, next := 0, valid := false, complete := false }

/-- R9: a Slot Map with every count 0. -/
def emptyMap : List Nat := List.replicate Config.slots 0

/-- R5: the empty replica. -/
def Replica.empty : Replica :=
  { claims := [], slotMap := emptyMap, roster := [], shed := 0, cursor := .invalid, stateCount := 0 }

/-- A channel record before the image is taken: that of R150 for a block of zeros (log entry 12). -/
def Channel.untaken : Channel :=
  { units := 0, cls := 0, defaultLevel := 0, target := 0, lastLit := 128, state := .unused, owed := false,
    revised := false }

/-- R158: one output channel after a cold reset. -/
def OutChannel.untaken : OutChannel :=
  { polarity := .activeHigh, drive := .pushPull, senseEnable := false, plan := none, lowCount := 0, faultHold := false }

/-- R172: a key record through LOADING. -/
def Key.untaken : Key :=
  { enable := false, bound := 0, mask := 0, threshold := 0, divider := 0, state := .unset, baseline := 0, last := 0,
    calCount := 0, calSum := 0, touchRun := 0, noTouchRun := 0, tracking := 0, overflowRun := 0, shortRun := 0,
    hold := 0, ramp := .up }

/-- The node right after a cold reset by power-on (R173): each block at the values of its chapter's reset table. -/
def State.reset : State :=
  { pending := []
    freeIndex := 0
    loader := { phase := .waiting, strap := 0, digest := 0, pins := .released }
    cfg := { rateCode := 0, slotCode := 0, guard := 0, budget := 0, presence := 0 }
    timer := { slot := 0, period := 0, started := false, slnPull := false, adoptionWait := 0 }
    line :=
      { idle := false, heard := false, inbound := [], holdLatch := false, runOwner := none, lastE := 0, attempt := none,
        restartPending := false, slots := .empty, errorsSignalled := 0, holdsSignalled := 0, abandoned := 0 }
    engine :=
      { replica := .empty, heldCheck := 0, dumpOwed := false, build := none, witnesses := [], mismatches := 0,
        rejected := 0 }
    chans := .replicate .untaken
    out := { pending := [], blank := false, late := 0, configured := false, chan := .replicate .untaken }
    ctl :=
      { station := .loading, ownIncarnation := 0, joinWait := 0, presence := 0, silence := [], haltCause := .none,
        rejoins := 0 }
    touch := { key := .replicate .untaken, holdTime := 0, stepSize := 0, scan := none } }

end Sys2Proof.Machine
end

