-- ==== Sys2Proof/Machine/Flags.lean ====
section
/-! DEFINITION. Views of the state that the rules read again and again: period order, listening, gates, counters, the output
pins and FAULTN. -/

namespace Sys2Proof.Machine

/-- A counter that stays at its limit (R34, R50, R69, R103, R109). -/
def satInc {w : Nat} (x : BitVec w) : BitVec w := if x = BitVec.allOnes w then x else x + 1

/-! ## Periods -/

/-- R26: the forward distance from period number `a` to period number `b`. -/
def forward (a b : Byte) : Nat := (b - a).toNat

/-- R26: `b` is after `a`. -/
def isAfter (a b : Byte) : Bool := 1 ≤ forward a b && forward a b ≤ 127

/-- R26: `b` is before `a`. -/
def isBefore (a b : Byte) : Bool := 1 ≤ forward b a && forward b a ≤ 127

/-- R32: how a record's e stands to the current period. -/
inductive StampCase where
  | pending
  | overdue
  | far
  deriving DecidableEq, Repr

/-- R32: 1..4 pending; 0 or 129..255 overdue; 5..128 far. -/
def stampCase (period e : Byte) : StampCase :=
  let d := forward period e
  if 1 ≤ d ∧ d ≤ 4 then .pending else if 5 ≤ d ∧ d ≤ 128 then .far else .overdue

/-! ## Station state -/

/-- R38: the states in which the line interface listens. -/
def StationState.listening : StationState → Bool
  | .loading => false
  | .halted => false
  | .joinSend => true
  | .joinWait => true
  | .foundSend => true
  | .dumpReceive => true
  | .run => true

/-- R22: the period timer runs in every state except LOADING and HALTED. -/
def StationState.timerRuns : StationState → Bool
  | .loading => false
  | .halted => false
  | .joinSend => true
  | .joinWait => true
  | .foundSend => true
  | .dumpReceive => true
  | .run => true

/-- The own station identity (R174). -/
def State.own (s : State) : Nat := s.loader.strap

/-- R2: the placeable length A. -/
def LineParams.placeable (p : LineParams) : Nat := Config.slots - 2 * p.guard

/-- R4: the effective budget at a shed level. -/
def effectiveBudget (budget : Nat) (shed : Num4) : Nat :=
  match shed with
  | 0 => budget
  | 1 => 3 * budget / 4
  | 2 => budget / 2
  | 3 => budget / 4

/-- R4: B′ of the node's replica. -/
def State.budgetNow (s : State) : Nat := effectiveBudget s.cfg.budget s.engine.replica.shed

/-- R122: 4P. -/
def State.evictAt (s : State) : Nat := 4 * s.cfg.presence

/-! ## Gates (R29) -/

def State.quarterGate (s : State) : Bool := s.timer.slot ≤ 31

def State.halfGate (s : State) : Bool := s.timer.slot ≤ 63

/-! ## Outputs -/

/-- A placement covers a slot. -/
def Placement.covers (p : Placement) (k : Nat) : Bool := p.start ≤ k && k < p.start + p.len

/-- R152, R154: OUTn is active. -/
def State.outActive (s : State) (n : Num4) : Bool :=
  s.ctl.station == .run && !s.out.blank && !(s.out.chan.get n).faultHold &&
    (match (s.out.chan.get n).plan with
     | some p => p.covers s.timer.slot
     | none => false)

/-- The level of a pin. -/
inductive PinLevel where
  | high
  | low
  | released
  deriving DecidableEq, Repr

/-- R153: the pin level of an output. -/
def pinLevel (pol : Polarity) (drive : DriveType) (active : Bool) : PinLevel :=
  match pol, drive, active with
  | .activeHigh, _, true => .high
  | .activeLow, _, true => .low
  | .activeHigh, .pushPull, false => .low
  | .activeLow, .pushPull, false => .high
  | _, .openDrain, false => .released

/-- R153: the level of OUTn; released until the drive configuration is taken. -/
def State.outPin (s : State) (n : Num4) : PinLevel :=
  if s.out.configured then
    pinLevel (s.out.chan.get n).polarity (s.out.chan.get n).drive (s.outActive n)
  else .released

/-- R161, R162, R172: the level of KEYn, `cycles` oscillator cycles after the measurement under way began: driven low in the
discharge of its own pad, released otherwise. -/
def State.keyPin (s : State) (n : Num4) (cycles : Nat) : PinLevel :=
  if s.ctl.station.timerRuns && s.touch.scan == some n && cycles < Config.dischargeCycles then .low else .released

/-- R175: the bit on CMOSI in CCK cycle `k`: the read command and the address, most significant first; what it shows while the
node reads is stated nowhere and is a free value (log entry 34). -/
def State.cmosiBit (s : State) (k : Nat) : Bool :=
  if k < commandCycles then transactionCommand.getLsbD (commandCycles - 1 - k) else Config.cmosiWhileReading s.freeIndex k

/-- R175: the read transaction is under way, `cycles` oscillator cycles after CSN went low. -/
def withinTransaction (cycles : Nat) : Bool := cycles < transactionCycles * cckCycles

/-- R173, R175: the level of CSN, `cycles` oscillator cycles after the read transaction under way began. -/
def State.csnPin (s : State) (cycles : Nat) : PinLevel :=
  match s.loader.pins with
  | .released => .released
  | .transaction => if withinTransaction cycles then .low else .high
  | .atRest => .high

/-- R173, R175: the level of CCK: low in the first half of each of its cycles, high in the second (log entry 34). -/
def State.cckPin (s : State) (cycles : Nat) : PinLevel :=
  match s.loader.pins with
  | .released => .released
  | .transaction => if withinTransaction cycles && cckCycles ≤ 2 * (cycles % cckCycles) then .high else .low
  | .atRest => .low

/-- R173, R175: the level of CMOSI, which changes with the falling edges of CCK. -/
def State.cmosiPin (s : State) (cycles : Nat) : PinLevel :=
  match s.loader.pins with
  | .released => .released
  | .transaction => if withinTransaction cycles && s.cmosiBit (cycles / cckCycles) then .high else .low
  | .atRest => .low

/-- R163: a key with a pad fault. -/
def KeyState.isFault : KeyState → Bool
  | .faultOverflow => true
  | .faultLow => true
  | .unset => false
  | .disabled => false
  | .calibrating => false
  | .released => false
  | .pressed => false
  | .holding => false

/-- R180: FAULTN is asserted (driven low). -/
def State.faultN (s : State) : Bool :=
  s.ctl.station == .halted || s.chans.any (fun c => c.state == .faulted) || s.touch.key.any (fun k => k.state.isFault)

/-- R23: SLN is pulled low by this node. -/
def State.slnPulled (s : State) : Bool := s.timer.slnPull

/-- R45, R93: the node is sending on DLN: an attempt of its own is under way. -/
def State.dlnDriven (s : State) : Bool := s.line.attempt.isSome

/-- R39: a bit on the wired-AND line: a dominant bit is driven low, a recessive one is released. -/
def bitPin (recessive : Bool) : PinLevel := if recessive then .released else .low

/-- R38, R39, R41: what this node puts on DLN as sender in bit time `bit` of the attempt under way, 0 being the first start bit. It
releases the line after its last stop bit, and while it sends nothing. -/
def State.dlnBit (s : State) (bit : Nat) : PinLevel :=
  match s.line.attempt with
  | some a => bitPin (a.message.bits.getD bit true)
  | none => .released

/-- R39: the level of DLN that this node as sender gives, `micros` µs after the start bit of the attempt under way began. -/
def State.dlnPin (s : State) (micros : Nat) : PinLevel := s.dlnBit (micros / bitMicros s.cfg.rateCode)

end Sys2Proof.Machine
end

