-- ==== Sys2Proof/WellFormed.lean ====
section
/-! DEFINITION. The commands whose operands the outside can give. -/

namespace Sys2Proof

/-- R38, R54: a station that decided a trailer was listening, and a closing part is accepted in DUMP-RECEIVE alone. -/
def Trailer.wellFormed (t : Trailer) : Bool :=
  t.errorState.listening && t.holdState.listening && (!t.closing || t.holdState == .dumpReceive)

/-- R39 to R41, R50: a message that reached its end has as many characters as its length character says, and a trailer. -/
def Reception.wellFormed (m : Reception) : Bool := m.complete && m.trailer.all Trailer.wellFormed

/-- R11: a station identity. -/
def stationOk (n : Nat) : Bool := 1 ≤ n && n ≤ 30

/-- R103. -/
def FailureEvent.wellFormed : FailureEvent → Bool
  | .trailer m _ _ => m.wellFormed
  | .breakOff => true

/-- A command whose operands are in the range the spec gives them. -/
def Instr.wellFormed : Instr → Bool
  | .coldReset _ => true
  | .configurationLoaderStart _ => true
  | .configurationReadComplete memory => memory.length == Machine.transactionCycles
  | .periodEndOfCount => true
  | .slnFallingEdge => true
  | .slotBoundary => true
  | .lineIdle => true
  | .attemptStart => true
  | .arbitrationLoss char bit => 1 ≤ char && char ≤ 6 + Config.payloadLimit && bit ≤ 7
  | .senderBreakOff => true
  | .messageAccepted m => m.wellFormed
  | .messageFailed m _ _ => m.wellFormed
  | .messageCutShort => true
  | .runLockTimeout => true
  | .abandon f => f.wellFormed
  | .applyPlace => true
  | .applyJoin => true
  | .applyEvict => true
  | .applyShed => true
  | .applyDumpOpen => true
  | .applyDumpPart => true
  | .applyPresence => true
  | .applyLevel => true
  | .applyScene => true
  | .applySceneMore => true
  | .applyQuery => true
  | .discardRecord => true
  | .adoptionWaitExpiry _ => true
  | .joinWaitExpiry _ => true
  | .presenceCountdownExpiry _ => true
  | .silenceLimit station _ => stationOk station
  | .placeCooldownExpiry _ => true
  | .measurementEnd _ _ => true
  | .holdTimeReached _ _ => true
  | .holdStep _ _ => true
  | .forcedRelease _ _ => true
  | .senseSample _ _ => true

end Sys2Proof
end

