-- ==== Sys2Proof/Machine/Replica.lean ====
section
/-! DEFINITION. The operations over the replica: Claim List and Slot Map together (R8, R10), Roster, state check (R14), and the
placement search (R16 to R18). -/

namespace Sys2Proof.Machine

/-! ## Slot counts -/

/-- The count of slot `k`. -/
def occupancy (m : List Nat) (k : Nat) : Nat := m.getD k 0

/-- R10: units added over the slots from `start` for `len` slots. -/
def addOver (m : List Nat) (start len units : Nat) : List Nat :=
  m.mapIdx fun k c => if start ≤ k ∧ k < start + len then c + units else c

/-- R10, R16: units subtracted over the slots from `start` for `len` slots. A count stops at 0. For a removal (R10) the law of
R9 leaves no count below 0; where a search takes the configured units out of an own entry that holds fewer, the stop is the
model's choice (log entry 35). -/
def subOver (m : List Nat) (start len units : Nat) : List Nat :=
  m.mapIdx fun k c => if start ≤ k ∧ k < start + len then c - units else c

/-- R77: some slot holds less than before. -/
def someLower (before after : List Nat) : Bool :=
  (List.range Config.slots).any fun k => occupancy after k < occupancy before k

/-! ## Claims -/

def Claim.placement (c : Claim) : Placement := { start := c.start, len := c.len }

/-- The entry covers slot `k`. -/
def Claim.covers (c : Claim) (k : Nat) : Bool := c.start ≤ k && k < c.start + c.len

/-- The entry is that of (station, channel). -/
def Claim.isFor (st : Nat) (ch : Num4) (c : Claim) : Bool := c.station == st && c.channel == ch

/-- The (station, channel)'s entry, if the list holds one (R7). -/
def claimOf (cs : List Claim) (st : Nat) (ch : Num4) : Option Claim := cs.find? (Claim.isFor st ch)

/-- R8, R10: append. -/
def Replica.append (r : Replica) (c : Claim) : Replica :=
  { r with claims := r.claims ++ [c], slotMap := addOver r.slotMap c.start c.len c.units }

/-- R8, R10: remove every entry that satisfies `p`, closing up the list and lowering the map. -/
def Replica.removeWhere (p : Claim → Bool) (r : Replica) : Replica :=
  { r with
    claims := r.claims.filter fun c => !p c
    slotMap := (r.claims.filter p).foldl (fun m c => subOver m c.start c.len c.units) r.slotMap }

/-- The own channels whose entries satisfy `p`, in list order (R63). -/
def ownChannels (own : Nat) (p : Claim → Bool) (cs : List Claim) : List Num4 :=
  (cs.filter fun c => p c && c.station == own).map (·.channel)

/-! ## Roster -/

/-- A station's Roster entry. -/
def memberOf (ms : List Member) (st : Nat) : Option Member := ms.find? (fun m => m.station == st)

/-- The station holds a Roster entry. -/
def isMember (ms : List Member) (st : Nat) : Bool := ms.any (fun m => m.station == st)

/-- R71: a new entry at the place its number gives. -/
def insertMember (m : Member) : List Member → List Member
  | [] => [m]
  | x :: xs => if m.station < x.station then m :: x :: xs else x :: insertMember m xs

/-- R71: a joiner's entry is added with incarnation 0, or its incarnation advances. -/
def joinRoster (st : Nat) (ms : List Member) : List Member :=
  if isMember ms st then
    ms.map fun m => if m.station = st then { m with incarnation := m.incarnation + 1 } else m
  else insertMember { station := st, incarnation := 0 } ms

/-! ## The state check (R14) -/

/-- R14: the term of an entry at position `i`. -/
def claimTerm (i : Nat) (c : Claim) : Nat :=
  (i + 1) * ((c.station * 4 + c.channel.val + 1) * (c.start * 256 + c.len + 1) + c.units * 4 + c.cls)

/-- R14: the terms of the entries from position `i` on. -/
def claimTerms : Nat → List Claim → Nat
  | _, [] => 0
  | i, c :: cs => claimTerm i c + claimTerms (i + 1) cs

/-- R14: the term of a Roster entry. -/
def memberTerm (m : Member) : Nat := m.station * 256 + m.incarnation.toNat + 7

/-- R14: the state check. -/
def stateCheck (r : Replica) : Word16 :=
  BitVec.ofNat 16 (claimTerms 0 r.claims + (r.roster.map memberTerm).sum + r.shed.val * 4096)

/-- R13, R15, R63 step 2: the state count advances and the held check is recomputed. -/
def Engine.recount (e : Engine) (r : Replica) : Engine :=
  let r' := { r with stateCount := r.stateCount + 1 }
  { e with replica := r', heldCheck := stateCheck r' }

/-! ## The placement search -/

/-- R16, R20: occupancy′: the channel's units taken out of the slots of its current entry, each count stopping at 0 (log entry
35). -/
def searchMap (m : List Nat) (units : Nat) (current : Option Placement) : List Nat :=
  match current with
  | some p => subOver m p.start p.len units
  | none => m

/-- R17: Fit(start, len). -/
def fits (occ : List Nat) (budget units guard start len : Nat) : Bool :=
  guard ≤ start && start + len ≤ Config.slots - guard &&
    (List.range len).all fun i => occupancy occ (start + i) + units ≤ budget

/-- R18: the lowest start that fits, counting up from G to 128 − G − len. -/
def firstFit (occ : List Nat) (budget units guard len : Nat) : Option Nat :=
  ((List.range (Config.slots - guard - len + 1 - guard)).map (· + guard)).find?
    fun st => fits occ budget units guard st len

/-- R18: keep-place, then first fit, at one length. -/
def placeAt (occ : List Nat) (budget units guard len : Nat) (current : Option Placement) : Option Placement :=
  match current with
  | some p =>
    if fits occ budget units guard p.start len then some { start := p.start, len := len }
    else (firstFit occ budget units guard len).map fun st => { start := st, len := len }
  | none => (firstFit occ budget units guard len).map fun st => { start := st, len := len }

/-- R18: the wanted length, then each shorter one down to 1. -/
def searchDown (occ : List Nat) (budget units guard : Nat) (current : Option Placement) : Nat → Option Placement
  | 0 => none
  | n + 1 =>
    match placeAt occ budget units guard (n + 1) current with
    | some p => some p
    | none => searchDown occ budget units guard current n

/-- R16 to R18: the search for one channel against the build map `m`. -/
def placementSearch (m : List Nat) (budget guard units wanted : Nat) (current : Option Placement) : Option Placement :=
  searchDown (searchMap m units current) budget units guard current wanted

/-! ## PLACE entries (R65 to R68) -/

/-- R66: why a placing entry is rejected. -/
inductive Rejection where
  | notMember
  | length
  | area
  | over
  deriving DecidableEq, Repr

/-- R65: the outcome of an entry. -/
inductive PlaceOutcome where
  | placed (p : Placement)
  | released
  | noChange
  | rejected (reason : Rejection)
  deriving DecidableEq, Repr

/-- R66 OVER: some covered slot would hold more than B′. -/
def wouldExceed (m : List Nat) (budget start len units : Nat) (current : Option Claim) : Bool :=
  (List.range len).any fun i =>
    let k := start + i
    let out := match current with
      | some c => if c.covers k then c.units else 0
      | none => 0
    budget < occupancy m k - out + units

/-- R66: the first reason that holds. -/
def judgePlacing (guard budget : Nat) (r : Replica) (source : Nat) (p : PlaceEntry) : Option Rejection :=
  if !isMember r.roster source then some .notMember
  else if Config.slots - 2 * guard < p.len.toNat then some .length
  else if p.start.toNat < guard ∨ Config.slots - guard < p.start.toNat + p.len.toNat then some .area
  else if wouldExceed r.slotMap budget p.start.toNat p.len.toNat p.units.toNat (claimOf r.claims source p.channel) then
    some .over
  else none

/-- R67: the claim entry a placing entry becomes. -/
def PlaceEntry.claim (source : Nat) (p : PlaceEntry) : Claim :=
  { station := source, channel := p.channel, cls := p.cls.val, units := p.units.toNat, start := p.start.toNat,
    len := p.len.toNat }

/-- R65 to R68: one entry applied. -/
def placeEntry (guard budget source : Nat) (r : Replica) (p : PlaceEntry) : Replica × PlaceOutcome :=
  if p.len = 0 then
    if !isMember r.roster source then (r, .rejected .notMember)
    else
      match claimOf r.claims source p.channel with
      | none => (r, .noChange)
      | some _ => (r.removeWhere (Claim.isFor source p.channel), .released)
  else
    match judgePlacing guard budget r source p with
    | some why => (r, .rejected why)
    | none =>
      ((r.removeWhere (Claim.isFor source p.channel)).append (p.claim source),
        .placed { start := p.start.toNat, len := p.len.toNat })

/-- R65: the entries in order, each judged against what the earlier ones left. -/
def placeEntries (guard budget source : Nat) : Replica → List PlaceEntry → Replica × List (Num4 × PlaceOutcome)
  | r, [] => (r, [])
  | r, p :: ps =>
    let (r', o) := placeEntry guard budget source r p
    let (r'', os) := placeEntries guard budget source r' ps
    (r'', (p.channel, o) :: os)

/-- R63 step 3: the outcome added, replaced or removed an entry. -/
def PlaceOutcome.touches : PlaceOutcome → Bool
  | .placed _ => true
  | .released => true
  | .noChange => false
  | .rejected _ => false

/-! ## EVICT (R72) and SHED (R75) -/

/-- R72: a pair matches the Roster. -/
def pairMatches (ms : List Member) (p : Pair) : Bool :=
  ms.any fun m => m.station == p.station.toNat && m.incarnation == p.incarnation

/-- R72: a station's Roster entry and claims leave the replica. -/
def Replica.evictStation (r : Replica) (st : Nat) : Replica :=
  { r.removeWhere (fun c => c.station == st) with roster := r.roster.filter fun m => m.station != st }

/-- R72, R73: the pairs in order, until a matching own pair; the second component says that one was met. -/
def evictPairs (own : Nat) : Replica → List Pair → Replica × Bool
  | r, [] => (r, false)
  | r, p :: ps =>
    if pairMatches r.roster p then
      if p.station.toNat = own then (r.evictStation own, true)
      else evictPairs own (r.evictStation p.station.toNat) ps
    else evictPairs own r ps

/-- R75: the entry covers a slot that holds more than `budget`. -/
def coversOver (m : List Nat) (budget : Nat) (c : Claim) : Bool :=
  (List.range Config.slots).any fun k => c.covers k && budget < occupancy m k

/-- R75: among the entries that cover an over-budget slot, the highest class, and among equals the latest in the list. -/
def shedChoice (m : List Nat) (budget : Nat) (cs : List Claim) : Option Claim :=
  (cs.filter (coversOver m budget)).foldl
    (fun best c =>
      match best with
      | none => some c
      | some b => if b.cls ≤ c.cls then some c else some b)
    none

/-- R75: entries removed one at a time until no slot holds more than `budget`; the removed entries in order. The fuel is
the number of entries. -/
def shedLoop (budget : Nat) : Nat → Replica → Replica × List Claim
  | 0, r => (r, [])
  | n + 1, r =>
    match shedChoice r.slotMap budget r.claims with
    | none => (r, [])
    | some c =>
      let (r', cs) := shedLoop budget n (r.removeWhere (Claim.isFor c.station c.channel))
      (r', c :: cs)

end Sys2Proof.Machine
end

