-- ==== Sys2Proof/Machine/Channels.lean ====
section
/-! DEFINITION. What each event does to one channel record (Chapter 7), and the scene cursor (R137 to R140). -/

namespace Sys2Proof.Machine

/-! ## Target changes (R132 to R134) -/

/-- R133: the new target. `t` is the target before, `a` the placeable length, `lit` last-lit. -/
def newTarget (a : Nat) (op : LevelOp) (v t lit : Nat) : Nat :=
  match op with
  | .set => min v a
  | .toggle => if 0 < t then 0 else lit
  | .stepUp => min a (t + v)
  | .stepDown => t - v

/-- R133: the new last-lit: the target before, when the operation takes a target above 0 to 0. -/
def newLastLit (a : Nat) (op : LevelOp) (v t lit : Nat) : Nat :=
  match op with
  | .set => if v = 0 ∧ 0 < t then t else lit
  | .toggle => if 0 < t then t else lit
  | .stepUp => lit
  | .stepDown => if newTarget a .stepDown v t lit = 0 ∧ 0 < t then t else lit

/-- R132, R134, R147: one operation on one channel; an UNUSED channel is passed over. -/
def Channel.operate (a : Nat) (op : LevelOp) (v : Nat) (c : Channel) : Channel :=
  if c.state = .unused then c
  else
    { c with
      target := newTarget a op v c.target c.lastLit
      lastLit := newLastLit a op v c.target c.lastLit
      state := .seeking, owed := true, revised := true }

/-- R132: an operation on the channels the mask names. -/
def operateMask (a : Nat) (op : LevelOp) (v : Nat) (mask : BitVec 4) (cs : Four Channel) : Four Channel :=
  .tabulate fun n => if mask.getLsbD n.val then (cs.get n).operate a op v else cs.get n

/-! ## Placement work -/

/-- R94, R130: the wanted length of a channel. -/
def Channel.wanted (c : Channel) : Nat := if c.state = .faulted then 0 else c.target

/-- R95, R142: why an owed channel contributed nothing to a build. -/
inductive NoContribution where
  | stands (len : Nat)
  | darkAndEmpty
  | noRoom
  deriving DecidableEq, Repr

/-- R141: a build takes the channel as owed. Its state stands: SEEKING or FAULTED as R142 says, and WAITING for a channel still
owed after a rejection (log entry 30). -/
def Channel.taken (c : Channel) : Channel := { c with revised := false }

/-- R142: the channel is handed back. -/
def Channel.handBack (why : NoContribution) (c : Channel) : Channel :=
  match why with
  | .stands len => { c with owed := false, state := if len = c.target then .lit else .dimmed }
  | .darkAndEmpty => { c with owed := false, state := if c.state = .faulted then .faulted else .dark }
  | .noRoom => { c with owed := false, state := .waiting }

/-- R143: an outcome; `holds` says that the channel holds an entry after the record. -/
def Channel.outcome (holds : Bool) (o : PlaceOutcome) (c : Channel) : Channel :=
  match c.state with
  | .unused => c
  | .faulted => { c with owed := holds }
  | _ =>
    match o with
    | .rejected _ => { c with state := .waiting, owed := true }
    | .placed p =>
      if c.revised then { c with state := .seeking, owed := true }
      else { c with state := if p.len = c.target then .lit else .dimmed, owed := false }
    | .released =>
      if c.revised then { c with state := .seeking, owed := true }
      else { c with state := if c.target = 0 then .dark else .waiting, owed := false }
    | .noChange =>
      if c.revised then { c with state := .seeking, owed := true }
      else { c with state := if c.target = 0 then .dark else .waiting, owed := false }

/-- R144: relief. -/
def Channel.relief (c : Channel) : Channel :=
  match c.state with
  | .dimmed => { c with state := .seeking, owed := true }
  | .waiting => { c with state := .seeking, owed := true }
  | .unused => c
  | .dark => c
  | .seeking => c
  | .lit => c
  | .faulted => c

/-- R145: the channel's entry has been shed. -/
def Channel.shed (c : Channel) : Channel :=
  match c.state with
  | .unused => c
  | .faulted => { c with owed := false }
  | _ => { c with state := .waiting, owed := true }

/-- R146: an OPEN report; `holds` says that the channel holds an entry. -/
def Channel.opened (holds : Bool) (c : Channel) : Channel :=
  if c.state = .unused then c else { c with state := .faulted, owed := holds, revised := false }

/-- R148: entry to RUN; `holds` says that the channel holds an entry in the replica just installed. -/
def Channel.resolve (holds : Bool) (c : Channel) : Channel :=
  match c.state with
  | .unused => c
  | .faulted => { c with owed := holds, revised := if holds then true else c.revised }
  | _ =>
    if 0 < c.target ∨ holds then { c with state := .seeking, owed := true, revised := true }
    else { c with state := .dark, owed := false }

/-- R149: warm restart and entry to HALTED. -/
def Channel.restart (c : Channel) : Channel :=
  match c.state with
  | .unused => { c with owed := false, revised := false }
  | .faulted => { c with owed := false, revised := false }
  | _ =>
    if 0 < c.target then { c with state := .seeking, owed := true, revised := true }
    else { c with state := .dark, owed := false, revised := false }

/-- R150: the channel record from its channel block. -/
def Channel.fromImage (a units cls level : Nat) : Channel :=
  let t := if units = 0 then 0 else min level a
  { units := units, cls := cls, defaultLevel := level, target := t
    lastLit := if units = 0 ∨ level = 0 then a else min level a
    state := if units = 0 then .unused else if 0 < t then .seeking else .dark
    owed := decide (0 < t), revised := decide (0 < t) }

/-! ## The scene cursor -/

/-- R137: the scene index of an own channel. -/
def sceneIndex (own : Nat) (ch : Num4) : Nat := (own - 1) * 4 + ch.val

/-- R138: a level assigned to a scene index: SET at the own channel of that index, unless the level is above 128. -/
def assignLevel (own a idx level : Nat) (cs : Four Channel) : Four Channel :=
  .tabulate fun n =>
    if sceneIndex own n = idx ∧ 1 ≤ own ∧ level ≤ 128 then (cs.get n).operate a .set level else cs.get n

/-- R138: levels assigned from the next index on, until the last index has been passed. -/
def assignLevels (own a : Nat) : List Byte → Cursor → Four Channel → Cursor × Four Channel
  | [], cur, cs => (cur, cs)
  | l :: ls, cur, cs =>
    let cs' := assignLevel own a cur.next.toNat l.toNat cs
    let cur' := { cur with next := cur.next + 1, complete := decide (cur.last.toNat < cur.next.toNat + 1) }
    if cur'.complete then (cur', cs') else assignLevels own a ls cur' cs'

/-- R138: a SCENE record. -/
def sceneStart (own a source : Nat) (first last : Byte) (levels : List Byte) (cs : Four Channel) : Cursor × Four Channel :=
  let cur : Cursor :=
    { source := BitVec.ofNat 8 source, first := first, last := last, next := first
      valid := decide (first.toNat ≤ last.toNat ∧ last.toNat ≤ 119), complete := false }
  if cur.valid then assignLevels own a levels cur cs else (cur, cs)

/-- R139: a SCENE-MORE record. -/
def sceneContinue (own a source : Nat) (levels : List Byte) (cur : Cursor) (cs : Four Channel) : Cursor × Four Channel :=
  if cur.valid && !cur.complete && cur.source.toNat == source then assignLevels own a levels cur cs else (cur, cs)

/-- R140: the cursor of a dump's cursor part, judged. -/
def Cursor.install (c : Cursor) : Cursor :=
  if c.valid = true ∧ c.first.toNat ≤ c.last.toNat ∧ c.last.toNat ≤ 119 ∧ c.first.toNat ≤ c.next.toNat
      ∧ c.next.toNat ≤ c.last.toNat + 1 then
    { c with complete := c.complete || c.next.toNat == c.last.toNat + 1 }
  else { c with valid := false }

end Sys2Proof.Machine
end

