-- ==== Sys2Proof/Machine/Slots.lean ====
section
/-! DEFINITION. The transmit slots (Chapter 5): their work, readiness and arbitration values, merging, and the building of each
message. -/

namespace Sys2Proof.Machine

/-! ## Slot access -/

/-- The attempt count and held mark of a slot. -/
def TxSlots.ctl (t : TxSlots) : SlotId → SlotCtl
  | .joinFound => t.joinFound
  | .dump => t.dump
  | .evict => t.evict
  | .place => t.place
  | .presence => t.presence
  | .report => t.report
  | .level k => (t.level.get k).ctl

/-- The slots with one slot's attempt count and held mark replaced. -/
def TxSlots.setCtl (t : TxSlots) (id : SlotId) (c : SlotCtl) : TxSlots :=
  match id with
  | .joinFound => { t with joinFound := c }
  | .dump => { t with dump := c }
  | .evict => { t with evict := c }
  | .place => { t with place := c }
  | .presence => { t with presence := c }
  | .report => { t with report := c }
  | .level k => { t with level := t.level.set k { t.level.get k with ctl := c } }

/-- R103: every held mark cleared, at a period start. -/
def TxSlots.clearHeld (t : TxSlots) : TxSlots :=
  { t with
    joinFound := { t.joinFound with held := false }, dump := { t.dump with held := false }
    evict := { t.evict with held := false }, place := { t.place with held := false }
    presence := { t.presence with held := false }, report := { t.report with held := false }
    level := t.level.map fun l => { l with ctl := { l.ctl with held := false } } }

/-- R91: the ten slots, the LEVEL slots in key order. -/
def allSlots : List SlotId :=
  [.joinFound, .dump, .evict, .place, .presence, .report, .level 0, .level 1, .level 2, .level 3]

/-! ## Work (R90) -/

/-- R121: the count of a station's silence counter; 0 for a station that holds none. -/
def silenceOf (ss : List Silence) (st : Nat) : Nat :=
  match ss.find? (fun x => x.station == st) with
  | some x => x.count
  | none => 0

/-- R96, R122: the roster stations owed an eviction, in station order. -/
def State.toEvict (s : State) : List Member :=
  s.engine.replica.roster.filter fun m => m.station != s.own && s.evictAt ≤ silenceOf s.ctl.silence m.station

/-- R90: a channel is owed. -/
def State.anyOwed (s : State) : Bool := s.chans.any (·.owed)

/-- R90: the slot has work. -/
def State.hasWork (s : State) : SlotId → Bool
  | .joinFound =>
    match s.line.slots.joinFoundHolds with
    | some .join => s.ctl.station == .joinSend
    | some .found => s.ctl.station == .foundSend
    | none => false
  | .dump => s.ctl.station == .run && (s.engine.dumpOwed || s.line.slots.dumpRun.isSome)
  | .evict => s.ctl.station == .run && !s.toEvict.isEmpty
  | .place => s.ctl.station == .run && s.anyOwed
  | .presence => s.ctl.station == .run && s.line.slots.presenceWork
  | .report => s.ctl.station.listening && s.line.slots.reportHolds.isSome
  | .level k => s.ctl.station.listening && (s.line.slots.level.get k).content.isSome

/-- R95, R96: a PLACE or EVICT slot whose work has ended has attempt count 0. -/
def State.settleSlots (s : State) : State :=
  let t := s.line.slots
  let place := if s.hasWork .place then t.place else { t.place with attempts := 0 }
  let evict := if s.hasWork .evict then t.evict else { t.evict with attempts := 0 }
  { s with line := { s.line with slots := { t with place := place, evict := evict } } }

/-! ## Opportunities and readiness (R91, R92) -/

/-- R59, R92: a run owned by this station is open. -/
def State.ownRun (s : State) : Bool := s.line.runOwner == some s.own

/-- R91: a sending opportunity. -/
def State.opportunity (s : State) : Bool :=
  s.ctl.station.listening && s.line.idle && (s.line.runOwner.isNone || s.ownRun) && s.line.attempt.isNone

/-- R92: the slot is ready. -/
def State.ready (s : State) (id : SlotId) : Bool :=
  let clear := !(s.line.slots.ctl id).held
  let queueEmpty := s.line.inbound.isEmpty
  s.hasWork id &&
    match id with
    | .dump => s.line.slots.dumpRun.isSome || (queueEmpty && s.quarterGate && clear)
    | .joinFound =>
      !s.ownRun && clear &&
        (match s.line.slots.joinFoundHolds with
         | some .join => s.timer.adoptionWait == 0
         | some .found => s.quarterGate
         | none => false)
    | .evict => !s.ownRun && queueEmpty && clear
    | .place => !s.ownRun && queueEmpty && clear && s.line.slots.cooldown == 0
    | .presence => !s.ownRun && queueEmpty && clear && s.halfGate
    | .report => !s.ownRun && clear
    | .level _ => !s.ownRun && clear

/-- R94: the lowest class among some channels, from 3 down. -/
def lowestClass (cs : List Nat) : Nat := cs.foldl min 3

/-- R91: the arbitration value (priority, kind), as priority × 32 + kind. -/
def State.arbitrationValue (s : State) (id : SlotId) : Nat :=
  match id with
  | .joinFound =>
    match s.line.slots.joinFoundHolds with
    | some .found => 2
    | _ => 1
  | .dump => if s.line.slots.dumpRun.isSome then 4 else 3
  | .evict => 5
  | .place =>
    (1 + lowestClass ((allFour.filter fun n => (s.chans.get n).owed).map fun n => (s.chans.get n).cls)) * 32 + 6
  | .presence => 32 + 8
  | .level _ => 2 * 32 + 9
  | .report => 3 * 32 + 13

/-- R91: the slot of the lowest value, the earliest of equals. -/
def State.select (s : State) (ids : List SlotId) : Option SlotId :=
  ids.foldl
    (fun best id =>
      match best with
      | none => some id
      | some b => if s.arbitrationValue id < s.arbitrationValue b then some id else some b)
    none

/-! ## Merging (R100 to R102) -/

/-- R101: an operation merged with what a LEVEL slot holds. -/
def mergeLevel (held : Option LevelRequest) (new : LevelRequest) : Option LevelRequest :=
  match held with
  | none => some new
  | some h =>
    match h.op, new.op with
    | .stepUp, .stepUp => some { new with value := min (h.value + new.value) 128 }
    | .stepDown, .stepDown => some { new with value := min (h.value + new.value) 128 }
    | .toggle, .toggle => none
    | _, _ => some new

/-- R101: the slot after a merge; a change of content returns the attempt count to 0 and clears the held mark. -/
def LevelSlot.merge (l : LevelSlot) (new : LevelRequest) : LevelSlot :=
  let c := mergeLevel l.content new
  { l with content := c, ctl := if c = l.content then l.ctl else .clear }

/-- R102: an operation handed to the slot, `busy` while its own attempt is on the line. -/
def LevelSlot.give (busy : Bool) (l : LevelSlot) (new : LevelRequest) : LevelSlot :=
  if busy then { l with followOn := mergeLevel l.followOn new } else l.merge new

/-- R102: at a failure or a loss a waiting follow-on is merged into the content. -/
def LevelSlot.mergeFollowOn (l : LevelSlot) : LevelSlot :=
  match l.followOn with
  | some f => { l.merge f with followOn := none }
  | none => l

/-- R102, R105: at acceptance or abandon the follow-on becomes the content. -/
def LevelSlot.takeFollowOn (l : LevelSlot) : LevelSlot := { l with content := l.followOn, followOn := none }

/-- R100, R102: a QUERY handed to the REPORT slot. -/
def TxSlots.giveReport (busy : Bool) (t : TxSlots) (q : ReportRequest) : TxSlots :=
  if busy then { t with reportFollowOn := some q } else { t with reportHolds := some q, report := .clear }

/-- R102: at a failure or a loss the follow-ons of the attempt's slot are merged. -/
def TxSlots.mergeFollowOn (t : TxSlots) (id : SlotId) : TxSlots :=
  match id with
  | .report =>
    match t.reportFollowOn with
    | some q => { t with reportHolds := some q, reportFollowOn := none, report := .clear }
    | none => t
  | .level k => { t with level := t.level.set k (t.level.get k).mergeFollowOn }
  | .joinFound => t
  | .dump => t
  | .evict => t
  | .place => t
  | .presence => t

/-- The attempt on the line is this slot's. -/
def LineInterface.busy (l : LineInterface) (id : SlotId) : Bool :=
  match l.attempt with
  | some a => a.slot == id
  | none => false

/-! ## PLACE build (R94, R95) -/

/-- What a PLACE build has come to: build map, entries so far, channel records, free values used. -/
structure PlaceBuild where
  map : List Nat
  entries : List PlaceEntry
  chans : Four Channel
  freeIndex : Nat
  deriving DecidableEq, Repr

/-- R20, R94: a placing entry, and the build map as R10 would leave it. -/
def PlaceBuild.placing (b : PlaceBuild) (n : Num4) (c : Channel) (current : Option Placement) (p : Placement) :
    PlaceBuild :=
  { b with
    map := addOver (searchMap b.map c.units current) p.start p.len c.units
    entries := b.entries ++
      [{ channel := n, cls := Fin.ofNat 4 c.cls, units := BitVec.ofNat 8 c.units, start := BitVec.ofNat 8 p.start,
         len := BitVec.ofNat 8 p.len }]
    chans := b.chans.set n c.taken }

/-- R20, R94: a release. The start it carries is stated nowhere and is a free value (log entry 3). -/
def PlaceBuild.release (b : PlaceBuild) (n : Num4) (c : Channel) (current : Option Placement) : PlaceBuild :=
  { map := searchMap b.map c.units current
    entries := b.entries ++
      [{ channel := n, cls := Fin.ofNat 4 c.cls, units := BitVec.ofNat 8 c.units
         start := Config.releaseStart b.freeIndex, len := 0 }]
    chans := b.chans.set n c.taken
    freeIndex := b.freeIndex + 1 }

/-- R95: a channel that contributes nothing. -/
def PlaceBuild.nothing (b : PlaceBuild) (n : Num4) (c : Channel) (why : NoContribution) : PlaceBuild :=
  { b with chans := b.chans.set n (c.taken.handBack why) }

/-- R94: one channel's contribution; a channel that is not owed is passed over. -/
def PlaceBuild.channel (budget guard own : Nat) (claims : List Claim) (b : PlaceBuild) (n : Num4) : PlaceBuild :=
  let c := b.chans.get n
  let current := (claimOf claims own n).map Claim.placement
  if !c.owed then b
  else if c.wanted = 0 then
    match current with
    | some _ => b.release n c current
    | none => b.nothing n c .darkAndEmpty
  else
    match placementSearch b.map budget guard c.units c.wanted current with
    | some p => if some p = current then b.nothing n c (.stands p.len) else b.placing n c current p
    | none =>
      match current with
      | some _ => b.release n c current
      | none => b.nothing n c .noRoom

/-- R94: the build over the channels in order, 0 to 3. -/
def State.placeBuild (s : State) : PlaceBuild :=
  allFour.foldl (PlaceBuild.channel s.budgetNow s.cfg.guard s.own s.engine.replica.claims)
    { map := s.engine.replica.slotMap, entries := [], chans := s.chans, freeIndex := s.freeIndex }

/-! ## Dumps (R98, R99) -/

/-- R98: the snapshot of a DUMP-OPEN attempt. -/
def State.snapshot (s : State) : Snapshot :=
  { roster := s.engine.replica.roster, cursor := s.engine.replica.cursor, claims := s.engine.replica.claims
    shed := s.engine.replica.shed, stateCount := s.engine.replica.stateCount, lastE := s.line.lastE
    period := s.timer.period }

/-- R99: a list cut into parts of `k`; the fuel is the list's length. -/
def chunks {α : Type} (k : Nat) : Nat → List α → List (List α)
  | 0, _ => []
  | n + 1, xs => if xs.isEmpty then [] else xs.take k :: chunks k n (xs.drop k)

/-- R99: the Claim List cut into runs of one station, four entries at most; `open?` is the part being filled. -/
def claimRuns : Option (Nat × List Claim) → List Claim → List (Nat × List Claim)
  | none, [] => []
  | some p, [] => [p]
  | none, c :: cs => claimRuns (some (c.station, [c])) cs
  | some (st, l), c :: cs =>
    if c.station = st ∧ l.length < 4 then claimRuns (some (st, l ++ [c])) cs
    else (st, l) :: claimRuns (some (c.station, [c])) cs

/-- 11.3: a claim as carried. -/
def Claim.entry (c : Claim) : PlaceEntry :=
  { channel := c.channel, cls := Fin.ofNat 4 c.cls, units := BitVec.ofNat 8 c.units, start := BitVec.ofNat 8 c.start
    len := BitVec.ofNat 8 c.len }

/-- 11.3: a Roster entry as carried. -/
def Member.pair (m : Member) : Pair := { station := BitVec.ofNat 8 m.station, incarnation := m.incarnation }

/-- R99: the parts of a dump in order: roster parts, the cursor part, claim parts. -/
def Snapshot.parts (sn : Snapshot) : List DumpPart :=
  (chunks 8 sn.roster.length sn.roster).map (fun ms => .roster (ms.map Member.pair)) ++
    [.cursor (if sn.cursor.valid then sn.cursor else .invalid)] ++
    (claimRuns none sn.claims).map (fun p => .claims p.1 (p.2.map Claim.entry))

/-- R98: the fields of the DUMP-OPEN. -/
def Snapshot.dumpOpen (digest : Word16) (sn : Snapshot) : DumpOpen :=
  { period := sn.period, lastE := sn.lastE, shed := sn.shed, stateCount := sn.stateCount, digest := digest
    rosterCount := BitVec.ofNat 8 sn.roster.length, claimCount := BitVec.ofNat 8 sn.claims.length }

/-! ## REPORT (R182, R183, 11.5) -/

/-- 11.5: the coding of the station state. -/
def StationState.code : StationState → Byte
  | .joinSend => 1
  | .joinWait => 2
  | .foundSend => 3
  | .dumpReceive => 4
  | .run => 5
  | .loading => 0
  | .halted => 0

/-- 11.5: the coding of the halt cause. -/
def HaltCause.code : HaltCause → Byte
  | .none => 0
  | .config => 1
  | .strap => 2
  | .mismatch => 3
  | .duplicate => 4

/-- 11.5: the coding of the channel state. -/
def ChannelState.code : ChannelState → Byte
  | .unused => 0
  | .dark => 1
  | .seeking => 2
  | .lit => 3
  | .dimmed => 4
  | .waiting => 5
  | .faulted => 6

/-- Four flags in bits 3..0, bit n for number n. -/
def Four.flags (f : Four Bool) : Nat :=
  boolByte f.c0 + 2 * boolByte f.c1 + 4 * boolByte f.c2 + 8 * boolByte f.c3

/-- 11.5: the node report after its what field. -/
def State.nodeReport (s : State) : List Byte :=
  [ s.ctl.station.code, s.ctl.haltCause.code, s.ctl.ownIncarnation
  , BitVec.ofNat 8
      (16 * Four.flags (s.touch.key.map fun k => k.state == .faultLow) +
        Four.flags (s.touch.key.map fun k => k.state == .faultOverflow))
  , BitVec.ofNat 8 (Four.flags (s.chans.map fun c => c.state == .faulted))
  , s.line.abandoned
  , hiByte s.out.late, loByte s.out.late
  , hiByte s.line.holdsSignalled, loByte s.line.holdsSignalled
  , hiByte s.line.errorsSignalled, loByte s.line.errorsSignalled
  , s.ctl.rejoins, s.engine.rejected, s.timer.period ]

/-- R183, 11.5: the four values of one channel; an UNUSED one reports target 0 and 255 for both, whatever the Claim List holds. -/
def State.channelReport (s : State) (n : Num4) : List Byte :=
  let c := s.chans.get n
  if c.state = .unused then [c.state.code, 0, 255, 255]
  else
    match claimOf s.engine.replica.claims s.own n with
    | some e => [c.state.code, BitVec.ofNat 8 c.target, BitVec.ofNat 8 e.start, BitVec.ofNat 8 e.len]
    | none => [c.state.code, BitVec.ofNat 8 c.target, 255, 255]

/-- 11.5: a report after its what field. -/
def State.reportBody (s : State) : What → List Byte
  | .node => s.nodeReport
  | .channels => allFour.flatMap s.channelReport

/-! ## Building each slot's message (R93 to R99) -/

/-- R30: e = the current period number + 3. -/
def State.stampNow (s : State) : Byte := s.timer.period + 3

/-- R93: a message of this node: lock 0 and destination 0 unless said otherwise. -/
def State.message (s : State) (priority : Nat) (p : Payload) (dest : Nat := 0) (lock : Bool := false) : Message :=
  { priority := Fin.ofNat 4 priority, lock := lock, source := s.own, dest := dest, payload := p }

/-- R93: the message of a slot built from the state at the attempt start, with the snapshot of a DUMP-OPEN; none when the
build yields no message. The state after it holds what the build hands back (R95). -/
def State.buildFor (s : State) (id : SlotId) : State × Option (Message × Option Snapshot) :=
  match id with
  | .joinFound =>
    match s.line.slots.joinFoundHolds with
    | some .join => (s, some (s.message 0 (.join s.stampNow s.loader.digest), none))
    | some .found => (s, some (s.message 0 (.found s.timer.period s.loader.digest), none))
    | none => (s, none)
  | .dump =>
    match s.line.slots.dumpRun with
    | none =>
      let sn := s.snapshot
      (s, some (s.message 0 (.dumpOpen (sn.dumpOpen s.loader.digest)) 0 true, some sn))
    | some run =>
      let parts := run.snapshot.parts
      match parts[run.position]? with
      | some p => (s, some (s.message 0 (.dumpPart p) 0 (run.position + 1 < parts.length), none))
      | none => (s, none)
  | .evict =>
    match s.toEvict.take 8 with
    | [] => (s, none)
    | ms => (s, some (s.message 0 (.evict s.stampNow (ms.map Member.pair)), none))
  | .place =>
    let b := s.placeBuild
    let s' := { s with chans := b.chans, freeIndex := b.freeIndex }
    match b.entries with
    | [] => (s', none)
    | es => (s', some (s.message (1 + lowestClass (es.map fun e => e.cls.val)) (.place s.stampNow es), none))
  | .presence =>
    (s, some
      (s.message 1
        (.presence s.timer.period s.engine.replica.stateCount s.engine.heldCheck s.ctl.ownIncarnation), none))
  | .report =>
    match s.line.slots.reportHolds with
    | some q => (s, some (s.message 3 (.report q.what (s.reportBody q.what)) q.querier, none))
    | none => (s, none)
  | .level k =>
    match (s.line.slots.level.get k).content with
    | some l => (s, some (s.message 2 (.level l.op l.mask (BitVec.ofNat 8 l.value)) l.dest, none))
    | none => (s, none)

/-- R91, R93: the ready slots tried in order of value until one builds a message; the fuel is the number of slots. -/
def State.tryBuilds : Nat → List SlotId → State → State
  | 0, _, s => s
  | n + 1, ids, s =>
    match s.select ids with
    | none => s
    | some id =>
      match s.buildFor id with
      | (s', some (m, sn)) =>
        { s' with
          line := { s'.line with
            idle := false
            attempt := some { slot := id, message := m, snapshot := sn, crossed := false } } }
      | (s', none) => State.tryBuilds n (ids.erase id) s'

end Sys2Proof.Machine
end

