-- ==== Sys2Proof/Machine/Station.lean ====
section
/-! DEFINITION. The changes of station state that several events share: halt, warm restart, return to JOIN-SEND, entry to the
other states (Chapter 6). -/

namespace Sys2Proof.Machine

/-! ## Emptying (R5, R89, R128) -/

/-- R89: the replica emptied, held check 0, dump-owed flag clear, dump build discarded, tally emptied; the rejected-entry
counter is kept. -/
def Engine.emptied (e : Engine) : Engine :=
  { e with
    replica := .empty, heldCheck := 0, dumpOwed := false, build := none, witnesses := [], mismatches := 0 }

/-- R158: Pending Change Queue and Drive Plan emptied, blank flag clear, low counts 0; the rest kept. -/
def OutputStage.emptied (o : OutputStage) : OutputStage :=
  { o with
    pending := [], blank := false, chan := o.chan.map fun c => { c with plan := none, lowCount := 0 } }

/-- R57, R106, R126: the line interface's share of a warm restart: inbound queue, hold latch and transmit slots; the
JOIN/FOUND slot then takes a JOIN. -/
def LineInterface.restarted (l : LineInterface) : LineInterface :=
  { l with
    inbound := [], holdLatch := false, restartPending := false
    slots := { TxSlots.empty with joinFoundHolds := some .join } }

/-- R38, R57, R60, R106, R128: the line interface at entry to HALTED. -/
def LineInterface.halted (l : LineInterface) : LineInterface :=
  { l with
    idle := false, heard := false, inbound := [], holdLatch := false, runOwner := none, attempt := none
    restartPending := false, slots := .empty }

/-! ## Halt (R127, R128) -/

/-- R128: entry to HALTED, every block in the one event. -/
def State.halt (s : State) (cause : HaltCause) : State :=
  { s with
    loader := { s.loader with phase := .finished }
    timer := { s.timer with slnPull := false }
    line := s.line.halted
    engine := s.engine.emptied
    chans := s.chans.map Channel.restart
    out := s.out.emptied
    ctl := { s.ctl with station := .halted, joinWait := 0, presence := 0, silence := [], haltCause := cause }
    touch := { s.touch with scan := none } }

/-! ## Warm restart (R125, R126) -/

/-- R126: everything but the line interface. -/
def State.restartBlocks (s : State) : State :=
  { s with
    timer := { s.timer with adoptionWait := s.evictAt }
    engine := s.engine.emptied
    chans := s.chans.map Channel.restart
    out := s.out.emptied
    ctl :=
      { s.ctl with
        station := .joinSend, joinWait := 0, presence := 0, silence := [], rejoins := satInc s.ctl.rejoins } }

/-- R125, R57: a warm restart; while the node is in an attempt of its own, the line interface's share waits for the end of
that attempt. -/
def State.warmRestart (s : State) : State :=
  let s' := s.restartBlocks
  if s.line.attempt.isSome then { s' with line := { s'.line with restartPending := true } }
  else { s' with line := s'.line.restarted }

/-! ## Entries to the joining states -/

/-- R109, R5: return to JOIN-SEND from JOIN-WAIT, FOUND-SEND or DUMP-RECEIVE. The held mark of the slot stands. -/
def State.returnToJoinSend (s : State) : State :=
  { s with
    line := { s.line with
      slots := { s.line.slots with
        joinFound := { s.line.slots.joinFound with attempts := 0 }, joinFoundHolds := some .join } }
    engine := { s.engine with replica := .empty, heldCheck := 0, build := none }
    ctl := { s.ctl with station := .joinSend, joinWait := 0, rejoins := satInc s.ctl.rejoins } }

/-- R116, R117, R88: a failed dump: the build discarded, the inbound queue emptied, the hold latch clear, JOIN-SEND. -/
def State.failDump (s : State) : State :=
  let s' := s.returnToJoinSend
  { s' with line := { s'.line with inbound := [], holdLatch := false } }

/-- R110, R111: the own JOIN has been accepted. -/
def State.enterJoinWait (s : State) : State :=
  { s with
    line := { s.line with slots := { s.line.slots with joinFoundHolds := none } }
    ctl := { s.ctl with station := .joinWait, joinWait := Config.joinWaitPeriods } }

/-- R111, R114: the join wait has run out. -/
def State.enterFoundSend (s : State) : State :=
  { s with
    line := { s.line with
      slots := { s.line.slots with
        joinFound := { s.line.slots.joinFound with attempts := 0 }, joinFoundHolds := some .found } }
    ctl := { s.ctl with station := .foundSend, joinWait := 0 } }

/-- R82, R112: the dump build opened from a DUMP-OPEN's fields. -/
def DumpBuild.opened (source : Nat) (f : DumpOpen) : DumpBuild :=
  { source := source, rosterCount := f.rosterCount.toNat, claimCount := f.claimCount.toNat, shed := f.shed
    stateCount := f.stateCount, phase := .roster, roster := [], cursor := none, claims := [], occupancy := emptyMap
    received := 0, spoiled := false, closing := false }

/-- R112, R115: entry to DUMP-RECEIVE. -/
def State.enterDumpReceive (s : State) (source : Nat) (f : DumpOpen) : State :=
  { s with
    line := { s.line with slots := { s.line.slots with joinFoundHolds := none } }
    engine := { s.engine with build := some (.opened source f) }
    ctl := { s.ctl with station := .dumpReceive, joinWait := 0 } }

/-! ## Entry to RUN (R118, R148) -/

/-- The node's own channel `n` holds a Claim List entry. -/
def State.holdsEntry (s : State) (n : Num4) : Bool := (claimOf s.engine.replica.claims s.own n).isSome

/-- R118: the silence counters at entry to RUN. -/
def freshSilence (own : Nat) (ms : List Member) : List Silence :=
  (ms.filter fun m => m.station != own).map fun m => { station := m.station, count := 0 }

/-- R118, R119: the incarnation of the own Roster entry. -/
def incarnationIn (own : Nat) (ms : List Member) : Byte :=
  match memberOf ms own with
  | some m => m.incarnation
  | none => 0

/-- R118: entry to RUN with the replica already installed. -/
def State.enterRun (s : State) : State :=
  let roster := s.engine.replica.roster
  { s with
    line := { s.line with slots := { s.line.slots with joinFoundHolds := none } }
    engine := { s.engine with dumpOwed := false, build := none, witnesses := [], mismatches := 0 }
    chans := .tabulate fun n => (s.chans.get n).resolve (s.holdsEntry n)
    ctl :=
      { s.ctl with
        station := .run, joinWait := 0
        ownIncarnation := incarnationIn s.own roster
        presence := s.own * 7 % s.cfg.presence + 1
        silence := freshSilence s.own roster } }

/-- R81: the founding replica. -/
def Replica.founding (own : Nat) : Replica :=
  { Replica.empty with roster := [{ station := own, incarnation := 0 }] }

/-- R81, R114: the own FOUND has been accepted. -/
def State.found (s : State) (period : Byte) : State :=
  let r := Replica.founding s.own
  State.enterRun
    { s with
      timer := { s.timer with period := period }
      engine := { s.engine with replica := r, heldCheck := stateCheck r } }

/-! ## The Pending Change Queue (R36) -/

/-- R36: an entry added; one for the same (channel, e) is replaced in place. -/
def addPending (p : PendingChange) (q : List PendingChange) : List PendingChange :=
  if q.any (fun x => x.channel == p.channel && x.e == p.e) then
    q.map fun x => if x.channel = p.channel ∧ x.e = p.e then p else x
  else q ++ [p]

/-- R63 step 3: an entry under `e` added for each of some channels, placed as `place` gives. -/
def addAll (e : Byte) (place : Num4 → Option Placement) (chs : List Num4) (q : List PendingChange) : List PendingChange :=
  chs.foldl (fun q n => addPending { channel := n, e := e, placement := place n } q) q

/-- R63 step 3: an entry under `e` for each of some own channels, with its placement as it stands. An UNUSED channel is given
none (R151, log entry 31). -/
def State.addPendings (s : State) (e : Byte) (chs : List Num4) : State :=
  { s with
    out := { s.out with
      pending :=
        addAll e (fun n => (claimOf s.engine.replica.claims s.own n).map Claim.placement)
          (chs.filter fun n => (s.chans.get n).state != .unused) s.out.pending } }

/-! ## The end of an attempt (R102 to R105) -/

/-- R120: the presence countdown reloaded. -/
def State.reloadPresence (s : State) : State :=
  { s with
    line := { s.line with slots := { s.line.slots with presenceWork := false } }
    ctl := { s.ctl with presence := s.cfg.presence } }

/-- R103, R105: the sixteenth failure of a slot. A dump abandoned at a part ends the DUMP slot's run; the run state of the line
keeps this node as owner until it times out, here as in every other station: the model's reading of "the run ends for this node" (log
entry 36). -/
def State.abandonSlot (s : State) (id : SlotId) : State :=
  let t := s.line.slots.setCtl id { attempts := 0, held := true }
  let s := { s with line := { s.line with slots := t, abandoned := satInc s.line.abandoned } }
  match id with
  | .place => { s with line := { s.line with slots := { t with cooldown := Config.cooldownPeriods } } }
  | .dump =>
    match t.dumpRun with
    | none => { s with engine := { s.engine with dumpOwed := false } }
    | some _ => { s with line := { s.line with slots := { t with dumpRun := none } } }
  | .joinFound =>
    match t.joinFoundHolds with
    | some .found => s.returnToJoinSend
    | some .join => s
    | none => s
  | .evict => s
  | .presence => s.reloadPresence
  | .report =>
    { s with
      line := { s.line with slots := { t with reportHolds := t.reportFollowOn, reportFollowOn := none } } }
  | .level k =>
    { s with
      line := { s.line with slots := { t with level := t.level.set k (t.level.get k).takeFollowOn } } }

/-- R103: the attempt counts one more failure; `hold` for a HOLD failure, which sets the held mark outside the own run. The own run
is the DUMP slot's, from the acceptance of its DUMP-OPEN to its last part (R92, R99): a DUMP-OPEN that fails while the run of an
abandoned dump is still open on the line is outside it, the model's choice (log entry 37). A follow-on that waits is merged after
that (R102), so a merge that changes the content leaves count 0 and the held mark clear: the model's order (log entry 28). -/
def State.failSlot (s : State) (id : SlotId) (hold : Bool) : State :=
  let c := s.line.slots.ctl id
  if Config.attemptLimit ≤ c.attempts + 1 then s.abandonSlot id
  else
    let inRun := id == .dump && s.line.slots.dumpRun.isSome
    let t := s.line.slots.setCtl id { attempts := c.attempts + 1, held := c.held || (hold && !inRun) }
    { s with line := { s.line with slots := t.mergeFollowOn id } }

/-- R57, R103: the attempt under way ends in a failure. -/
def State.attemptFailed (s : State) (hold : Bool) : State :=
  match s.line.attempt with
  | none => s
  | some a =>
    let s := { s with line := { s.line with attempt := none, idle := false } }
    if s.line.restartPending then { s with line := s.line.restarted } else (s.failSlot a.slot hold).settleSlots

/-- R57, R103: the attempt under way is lost in arbitration. -/
def State.attemptLost (s : State) : State :=
  match s.line.attempt with
  | none => s
  | some a =>
    let s := { s with line := { s.line with attempt := none, idle := false } }
    if s.line.restartPending then { s with line := s.line.restarted }
    else { s with line := { s.line with slots := s.line.slots.mergeFollowOn a.slot } }

/-- R104: the outcome of an accepted message handed on; `found` is a FOUND's period field. -/
def State.slotAccepted (s : State) (a : Attempt) : State :=
  let c := s.line.slots.ctl a.slot
  let t := s.line.slots.setCtl a.slot { c with attempts := 0 }
  let s := { s with line := { s.line with slots := t } }
  match a.slot with
  | .joinFound =>
    match a.message.payload, s.ctl.station with
    | .join _ _, .joinSend => s.enterJoinWait
    | .found p _, .foundSend => s.found p
    | _, _ => s
  | .dump =>
    match a.snapshot, t.dumpRun with
    | some sn, _ => { s with line := { s.line with slots := { t with dumpRun := some { snapshot := sn, position := 0 } } } }
    | none, some run =>
      { s with
        line := { s.line with
          slots := { t with
            dumpRun :=
              if run.position + 1 < run.snapshot.parts.length then some { run with position := run.position + 1 }
              else none } } }
    | none, none => s
  | .evict => s
  | .place => s
  | .presence => s.reloadPresence
  | .report =>
    { s with
      line := { s.line with slots := { t with reportHolds := t.reportFollowOn, reportFollowOn := none } } }
  | .level k =>
    { s with
      line := { s.line with slots := { t with level := t.level.set k (t.level.get k).takeFollowOn } } }

/-! ## Key operations (R171) -/

/-- R171: an operation of key `k` goes to the own channel manager or to the key's LEVEL slot. -/
def State.keyOperation (s : State) (k : Num4) (op : LevelOp) (value : Nat) : State :=
  let key := s.touch.key.get k
  if key.bound = s.own then { s with chans := operateMask s.cfg.placeable op value key.mask s.chans }
  else
    let t := s.line.slots
    let req : LevelRequest := { op := op, value := value, dest := key.bound, mask := key.mask }
    { s with
      line := { s.line with
        slots := { t with level := t.level.set k ((t.level.get k).give (s.line.busy (.level k)) req) } } }

end Sys2Proof.Machine
end

