-- ==== Sys2Proof/Machine/Apply.lean ====
section
/-! DEFINITION. The placement engine applies the record at the head of the inbound queue (Chapter 4), and the divergence tally
(R123, R124). -/

namespace Sys2Proof.Machine

/-! ## The head of the queue -/

/-- R61: the record the engine takes: the head, in a listening state, when no restart waits for the end of an attempt. -/
def State.engineHead (s : State) : Option Record :=
  if s.ctl.station.listening && !s.line.restartPending then s.line.inbound.head? else none

/-- R56, R61: the removal that ends an application. -/
def State.dropHead (s : State) : State :=
  let q := s.line.inbound.tail
  { s with
    line := { s.line with
      inbound := q, holdLatch := if q.length ≤ Config.latchRelease then false else s.line.holdLatch } }

/-- R62: a record of this kind has a use in this station state; otherwise it is discarded. -/
def Payload.usedIn (p : Payload) (st : StationState) : Bool :=
  match p with
  | .join .. => st == .run
  | .evict .. => st == .run
  | .place .. => st == .run
  | .shed .. => st == .run
  | .dumpOpen .. => st == .run
  | .dumpPart .. => st == .dumpReceive
  | .found .. => false
  | .presence .. => st == .run
  | .scene .. => st == .run
  | .sceneMore .. => st == .run
  | .level .. => st.listening
  | .query .. => st.listening
  | .report .. => false

/-- R61, R62: the head record, when it has a use in the station state in force. -/
def State.useHead (s : State) : Option Record :=
  match s.engineHead with
  | some r => if r.payload.usedIn s.ctl.station then some r else none
  | none => none

/-! ## The frame of a state-changing record (R63) -/

/-- R33: the period number under which own changes are entered: e, or the next period for an overdue record. -/
def State.changePeriod (s : State) (e : Byte) : Byte :=
  match stampCase s.timer.period e with
  | .overdue => s.timer.period + 1
  | .pending => e
  | .far => e

/-- R33, R35: an overdue record sets the blank flag. -/
def State.blankIfOverdue (s : State) (e : Byte) : State :=
  if stampCase s.timer.period e = .overdue then { s with out := { s.out with blank := true } } else s

/-- R144: relief handed to the channel manager. -/
def State.giveRelief (s : State) : State := { s with chans := s.chans.map Channel.relief }

/-- R77: the record gives relief. -/
def givesRelief (before after : Replica) : Bool :=
  someLower before.slotMap after.slotMap || decide (after.shed.val < before.shed.val)

/-- R63 steps 1 to 5 for a record whose replica after it is `r`: count and check, Pending Change Queue, blank, the hand-off
of own outcomes, relief. -/
def State.commit (s : State) (e : Byte) (r : Replica) (touched : List Num4) (handOff : State → State) : State :=
  let before := s.engine.replica
  let s1 := { s with engine := s.engine.recount r }
  let s2 := (s1.addPendings (s.changePeriod e) touched).blankIfOverdue e
  let s3 := handOff s2
  (if givesRelief before r then s3.giveRelief else s3).settleSlots

/-! ## PLACE (R65 to R69) -/

/-- R69, R143: one own outcome handed to the channel manager and, when rejected, counted. -/
def State.handOutcome (s : State) (x : Num4 × PlaceOutcome) : State :=
  let s := { s with chans := s.chans.set x.1 ((s.chans.get x.1).outcome (s.holdsEntry x.1) x.2) }
  match x.2 with
  | .rejected _ => { s with engine := { s.engine with rejected := satInc s.engine.rejected } }
  | .placed _ => s
  | .released => s
  | .noChange => s

/-- R63, R65: a PLACE record that is not far. -/
def State.applyPlaceRecord (s : State) (source : Nat) (e : Byte) (entries : List PlaceEntry) : State :=
  let (r, os) := placeEntries s.cfg.guard s.budgetNow source s.engine.replica entries
  let ownOutcomes := if source = s.own then os else []
  let touched := (ownOutcomes.filter fun x => x.2.touches).map (·.1)
  s.commit e r touched fun s' => ownOutcomes.foldl State.handOutcome s'

/-! ## JOIN (R64, R70, R71) -/

/-- R71: the replica after a JOIN whose digest matches. -/
def Replica.joined (r : Replica) (source : Nat) : Replica :=
  { r.removeWhere (fun c => c.station == source) with roster := joinRoster source r.roster }

/-- R121: a silence counter for a station that enters the Roster. -/
def addSilence (own source : Nat) (ms : List Member) (ss : List Silence) : List Silence :=
  if isMember ms source || source == own then ss else ss ++ [{ station := source, count := 0 }]

/-- R63, R64, R70, R71: a JOIN record that is not far. The own incarnation follows the own Roster entry (R119). -/
def State.applyJoinRecord (s : State) (source : Nat) (e : Byte) (digest : Word16) : State :=
  let s' :=
    if digest = s.loader.digest then
      let r := s.engine.replica
      let touched := if source = s.own then ownChannels s.own (fun c => c.station == source) r.claims else []
      let s1 := s.commit e (r.joined source) touched id
      { s1 with
        ctl :=
          { s1.ctl with
            silence := addSilence s.own source r.roster s1.ctl.silence
            ownIncarnation :=
              if source = s.own then incarnationIn s.own s1.engine.replica.roster else s1.ctl.ownIncarnation } }
    else s.blankIfOverdue e
  { s' with engine := { s'.engine with dumpOwed := true } }

/-! ## EVICT (R72, R73) -/

/-- R121: the counters of stations that have left the Roster are removed. -/
def pruneSilence (ms : List Member) (ss : List Silence) : List Silence := ss.filter fun x => isMember ms x.station

/-- R63, R72, R73: an EVICT record that is not far; a matching own pair ends in a warm restart. -/
def State.applyEvictRecord (s : State) (e : Byte) (pairs : List Pair) : State :=
  let (r, self) := evictPairs s.own s.engine.replica pairs
  if self then s.warmRestart
  else
    let s1 := { s with ctl := { s.ctl with silence := pruneSilence r.roster s.ctl.silence } }
    s1.commit e r [] id

/-! ## SHED (R74 to R76) -/

/-- R74, R75: the replica after a SHED, and the entries it removed in order. -/
def shedReplica (budget : Nat) (r : Replica) (level : Num4) : Replica × List Claim :=
  let r' := { r with shed := level }
  if r.shed.val < level.val then shedLoop (effectiveBudget budget level) r.claims.length r' else (r', [])

/-- R76, R145: one shed own channel handed to the channel manager. -/
def State.handShed (s : State) (n : Num4) : State := { s with chans := s.chans.set n (s.chans.get n).shed }

/-- R63, R74 to R76: a SHED record that is not far. -/
def State.applyShedRecord (s : State) (e : Byte) (level : Num4) : State :=
  let (r, removed) := shedReplica s.cfg.budget s.engine.replica level
  let touched := ownChannels s.own (fun _ => true) removed
  s.commit e r touched fun s' => touched.foldl State.handShed s'

/-! ## DUMP-OPEN in RUN (R78) -/

/-- R98: another station's DUMP-OPEN takes the work of a DUMP slot that has no run of its own, with its count and held mark.
The node's own leaves the slot (R78), and the held mark of a run abandoned since stands until the next period start (R103). A
DUMP-OPEN that finds the dump-owed flag already clear, after an own DUMP-OPEN was abandoned in this period, clears that held mark
too: the model's choice (log entry 32). -/
def TxSlots.cancelDump (foreign : Bool) (t : TxSlots) : TxSlots :=
  if foreign && t.dumpRun.isNone then { t with dump := .clear } else t

/-- R78, R98: the dump-owed flag cleared, whatever the source. -/
def State.applyDumpOpenRecord (s : State) (source : Nat) : State :=
  { s with
    engine := { s.engine with dumpOwed := false }
    line := { s.line with slots := s.line.slots.cancelDump (source != s.own) } }

/-! ## The dump build (R83 to R88) -/

/-- R83: one roster entry. -/
def DumpBuild.addMember (b : DumpBuild) (p : Pair) : DumpBuild :=
  let st := p.station.toNat
  let last := match b.roster.getLast? with
    | some m => m.station
    | none => 0
  if st = 0 ∨ 30 < st ∨ st ≤ last ∨ Config.rosterLimit ≤ b.roster.length then { b with spoiled := true }
  else { b with roster := b.roster ++ [{ station := st, incarnation := p.incarnation }] }

/-- R85: the entry would take a covered slot above the B′ of the dump's shed level. -/
def buildExceeds (occ : List Nat) (budget : Nat) (c : Claim) : Bool :=
  (List.range c.len).any fun i => budget < occupancy occ (c.start + i) + c.units

/-- R85: one claim entry, counted whether added or not. -/
def DumpBuild.addClaim (guard budget station : Nat) (b : DumpBuild) (p : PlaceEntry) : DumpBuild :=
  let c := p.claim station
  let b := { b with received := b.received + 1 }
  if !isMember b.roster station || (claimOf b.claims station p.channel).isSome
      || decide (c.start < guard ∨ c.len = 0 ∨ Config.slots - 2 * guard < c.len ∨ Config.slots - guard < c.start + c.len)
      || buildExceeds b.occupancy (effectiveBudget budget b.shed) c || decide (Config.claimLimit ≤ b.claims.length) then
    { b with spoiled := true }
  else { b with claims := b.claims ++ [c], occupancy := addOver b.occupancy c.start c.len c.units }

/-- R83 to R85: a DUMP-PART added to the build. -/
def DumpBuild.addPart (guard budget source : Nat) (b : DumpBuild) (p : DumpPart) : DumpBuild :=
  if source ≠ b.source then { b with spoiled := true }
  else
    match p, b.phase with
    | .roster es, .roster => es.foldl DumpBuild.addMember b
    | .roster _, .claims => { b with spoiled := true }
    | .cursor c, .roster => { b with cursor := some c, phase := .claims }
    | .cursor _, .claims => { b with spoiled := true }
    | .claims st es, .claims => es.foldl (DumpBuild.addClaim guard budget st) b
    | .claims st es, .roster =>
      es.foldl (DumpBuild.addClaim guard budget st) { b with spoiled := true, phase := .claims }

/-- R86: the dump is complete. -/
def DumpBuild.complete (own : Nat) (b : DumpBuild) : Bool :=
  !b.spoiled && b.roster.length == b.rosterCount && b.received == b.claimCount && b.cursor.isSome
    && isMember b.roster own

/-- R87, R140: the replica a complete build becomes. -/
def DumpBuild.replica (b : DumpBuild) : Replica :=
  { claims := b.claims, slotMap := b.occupancy, roster := b.roster, shed := b.shed
    cursor := match b.cursor with
      | some c => c.install
      | none => .invalid
    stateCount := b.stateCount }

/-- R87, R117: the build installed, own claims entered under the next period, and entry to RUN. A claim of an UNUSED channel
stays in the Claim List and is not entered (R151, log entry 31). -/
def State.installDump (s : State) (b : DumpBuild) : State :=
  let r := b.replica
  let s1 := { s with engine := { s.engine with replica := r, heldCheck := stateCheck r } }
  (s1.addPendings (s.timer.period + 1) (ownChannels s.own (fun _ => true) r.claims)).enterRun

/-- R83 to R88: a DUMP-PART record in DUMP-RECEIVE; the closing part, lock 0 from the dump source, decides the dump. -/
def State.applyDumpPartRecord (s : State) (source : Nat) (lock : Bool) (p : DumpPart) : State :=
  match s.engine.build with
  | none => s
  | some b0 =>
    let b := b0.addPart s.cfg.guard s.cfg.budget source p
    if source = b0.source ∧ lock = false then if b.complete s.own then s.installDump b else s.failDump
    else { s with engine := { s.engine with build := some b } }

/-! ## The divergence tally (R123, R124) -/

/-- R123: the PRESENCE is judged. -/
def State.judges (s : State) (r : Record) : Bool :=
  isMember s.engine.replica.roster r.source && r.source != s.own && !r.boundary

/-- R124: the three agreements. -/
def State.presenceMatches (s : State) (stamp period : Byte) (count check : Word16) : Bool :=
  period == stamp && count == s.engine.replica.stateCount && check == s.engine.heldCheck

/-- R124: the tally after a mismatch with `source`. -/
def Engine.mismatch (e : Engine) (source : Nat) : Engine :=
  { e with
    witnesses := if e.witnesses.contains source then e.witnesses else e.witnesses ++ [source]
    mismatches := satInc e.mismatches }

/-- R124: after a mismatch with `source` the node is out of step. -/
def Engine.diverged (own source : Nat) (e : Engine) : Bool :=
  decide (2 ≤ e.witnesses.length) ||
    (e.replica.roster.length == 2 && isMember e.replica.roster own && isMember e.replica.roster source
      && decide (3 ≤ e.mismatches.toNat) && decide (source < own))

/-- R79, R123, R124: a PRESENCE record in RUN. -/
def State.applyPresenceRecord (s : State) (r : Record) (period : Byte) (count check : Word16) : State :=
  if !s.judges r then s
  else if s.presenceMatches r.stamp period count check then
    { s with engine := { s.engine with witnesses := [], mismatches := 0 } }
  else
    let e := s.engine.mismatch r.source
    let s' := { s with engine := e }
    if e.diverged s.own r.source then s'.warmRestart else s'

/-! ## Lighting and QUERY (R80, R100, R135, R138, R139) -/

/-- R135: a LEVEL record. -/
def State.applyLevelRecord (s : State) (op : LevelOp) (mask : BitVec 4) (value : Byte) : State :=
  { s with chans := operateMask s.cfg.placeable op value.toNat mask s.chans }

/-- The cursor and the channels after a scene record. -/
def State.setScene (s : State) (x : Cursor × Four Channel) : State :=
  { s with
    engine := { s.engine with replica := { s.engine.replica with cursor := x.1 } }
    chans := x.2 }

/-- R100, R102: a QUERY record. -/
def State.applyQueryRecord (s : State) (source : Nat) (what : What) : State :=
  { s with
    line := { s.line with
      slots := s.line.slots.giveReport (s.line.busy .report) { querier := source, what := what } } }

/-! ## The commands -/

/-- R32, R63: a record that is far restarts the node; otherwise it is applied by `f`. Its removal ends the application. -/
def State.applyStamped (s : State) (e : Byte) (f : State → State) : State :=
  (if stampCase s.timer.period e = .far then s.warmRestart else f s).dropHead

/-- APPLY_PLACE (R65). -/
def execApplyPlace (s : State) : Host.Outcome State Fault Refusal :=
  match s.useHead with
  | some { source := src, payload := .place e es, .. } => .next (s.applyStamped e fun s => s.applyPlaceRecord src e es)
  | _ => .next s

/-- APPLY_JOIN (R71). -/
def execApplyJoin (s : State) : Host.Outcome State Fault Refusal :=
  match s.useHead with
  | some { source := src, payload := .join e d, .. } => .next (s.applyStamped e fun s => s.applyJoinRecord src e d)
  | _ => .next s

/-- APPLY_EVICT (R72). -/
def execApplyEvict (s : State) : Host.Outcome State Fault Refusal :=
  match s.useHead with
  | some { payload := .evict e ps, .. } => .next (s.applyStamped e fun s => s.applyEvictRecord e ps)
  | _ => .next s

/-- APPLY_SHED (R75). -/
def execApplyShed (s : State) : Host.Outcome State Fault Refusal :=
  match s.useHead with
  | some { payload := .shed e l, .. } => .next (s.applyStamped e fun s => s.applyShedRecord e l)
  | _ => .next s

/-- APPLY_DUMP_OPEN (R78). -/
def execApplyDumpOpen (s : State) : Host.Outcome State Fault Refusal :=
  match s.useHead with
  | some { source := src, payload := .dumpOpen _, .. } => .next (s.applyDumpOpenRecord src).dropHead
  | _ => .next s

/-- APPLY_DUMP_PART (R83). -/
def execApplyDumpPart (s : State) : Host.Outcome State Fault Refusal :=
  match s.useHead with
  | some { source := src, lock := lock, payload := .dumpPart p, .. } => .next (s.applyDumpPartRecord src lock p).dropHead
  | _ => .next s

/-- APPLY_PRESENCE (R79). -/
def execApplyPresence (s : State) : Host.Outcome State Fault Refusal :=
  match s.useHead with
  | some r =>
    match r.payload with
    | .presence p n c _ => .next (s.applyPresenceRecord r p n c).dropHead
    | _ => .next s
  | none => .next s

/-- APPLY_LEVEL (R135). -/
def execApplyLevel (s : State) : Host.Outcome State Fault Refusal :=
  match s.useHead with
  | some { payload := .level op m v, .. } => .next (s.applyLevelRecord op m v).dropHead
  | _ => .next s

/-- APPLY_SCENE (R138). -/
def execApplyScene (s : State) : Host.Outcome State Fault Refusal :=
  match s.useHead with
  | some { source := src, payload := .scene f l ls, .. } =>
    .next (s.setScene (sceneStart s.own s.cfg.placeable src f l ls s.chans)).dropHead
  | _ => .next s

/-- APPLY_SCENE_MORE (R139). -/
def execApplySceneMore (s : State) : Host.Outcome State Fault Refusal :=
  match s.useHead with
  | some { source := src, payload := .sceneMore ls, .. } =>
    .next (s.setScene (sceneContinue s.own s.cfg.placeable src ls s.engine.replica.cursor s.chans)).dropHead
  | _ => .next s

/-- APPLY_QUERY (R100). -/
def execApplyQuery (s : State) : Host.Outcome State Fault Refusal :=
  match s.useHead with
  | some { source := src, payload := .query w, .. } => .next (s.applyQueryRecord src w).dropHead
  | _ => .next s

/-- DISCARD_RECORD (R62): the head is of a kind that the station state does not use. -/
def execDiscardRecord (s : State) : Host.Outcome State Fault Refusal :=
  match s.engineHead with
  | some r => if r.payload.usedIn s.ctl.station then .next s else .next s.dropHead
  | none => .next s

end Sys2Proof.Machine
end

