-- ==== Sys2Proof/Machine/Line.lean ====
section
/-! DEFINITION. The share line (Chapter 3) and the sender's side of it (Chapter 5): idle, attempts, the trailer, acceptance and
failure, runs. -/

namespace Sys2Proof.Machine

/-! ## Receiving -/

/-- R38, R41: this station has received the message to its end; while an attempt of its own is under way, the message on
the line is the one it built (log entry 23). -/
def State.receives (s : State) (m : Reception) : Bool :=
  s.ctl.station.listening && s.line.heard && m.complete &&
    (match s.line.attempt with
     | some a => m.chars == a.message.chars.map fun c => { value := c, stopRecessive := true }
     | none => true)

/-- R55: the inbound queue holds 8 records. -/
def State.queueFull (s : State) : Bool := Config.queueLimit ≤ s.line.inbound.length

/-- R50: the trailer of a message into which no event of the node falls is decided by what stands at its end. -/
def State.trailerNow (s : State) : Trailer :=
  { errorState := s.ctl.station, holdState := s.ctl.station, closing := s.engine.build.any (·.closing)
    full := s.queueFull, latched := s.line.holdLatch }

/-- R50, R53: what this station decided the trailer of `m` by. Within a trailer nothing is accepted (R51), so a queue that is full
at its end was full at the start of the HOLD slot, and so with the hold latch (log entry 5). -/
def State.trailerOf (s : State) (m : Reception) : Trailer :=
  match m.trailer with
  | none => s.trailerNow
  | some t => { t with full := t.full || s.queueFull, latched := t.latched || s.line.holdLatch }

/-- R53, R54: the state under which a station filters: that of RUN once it has accepted the closing part of its dump. -/
def filterState (t : Trailer) : StationState :=
  if t.holdState = .dumpReceive ∧ t.closing = true then .run else t.holdState

/-- R53: the address filter of station `own` in state `st`. -/
def StationState.admits (st : StationState) (own dest : Nat) (p : Payload) : Bool :=
  let toMe := dest == 0 || dest == own
  match p with
  | .join .. => st == .run
  | .evict .. => st == .run
  | .place .. => st == .run
  | .shed .. => st == .run
  | .found .. => st == .joinWait || st == .foundSend
  | .dumpOpen .. => st == .joinWait || st == .foundSend || st == .run
  | .dumpPart .. => st == .dumpReceive
  | .presence .. => st == .run
  | .scene .. => st == .run
  | .sceneMore .. => st == .run
  | .level .. => toMe && st.listening
  | .query .. => toMe && st.listening
  | .report .. => false

/-- R53: the address filter admits the message, judged at the start of the HOLD slot. -/
def State.admits (s : State) (m : Reception) (msg : Message) : Bool :=
  (filterState (s.trailerOf m)).admits s.own msg.dest msg.payload

/-- R53: the record is queued: the filter admits it, and the station has not left its state by the end of the HOLD slot. -/
def State.queues (s : State) (m : Reception) (msg : Message) : Bool :=
  s.admits m msg && (s.trailerOf m).holdState == s.ctl.station

/-- R49: a RUN station's veto: of every FOUND, and of a state-changing message whose e is before last-e. -/
def State.vetoes (s : State) (st : StationState) (p : Payload) : Bool :=
  st == .run &&
    match p with
    | .found .. => true
    | p =>
      match p.e with
      | some e => isBefore s.line.lastE e
      | none => false

/-- R47, R48, R50: this station signals ERROR in the message's trailer. -/
def State.signalsError (s : State) (m : Reception) : Bool :=
  !m.toNobody &&
    match m.message with
    | none => true
    | some msg => s.vetoes (s.trailerOf m).errorState msg.payload

/-- R50, R56: this station signals HOLD in the message's trailer. -/
def State.signalsHold (s : State) (m : Reception) : Bool :=
  !m.toNobody && !s.signalsError m &&
    match m.message with
    | none => false
    | some msg =>
      s.admits m msg && ((s.trailerOf m).full || (s.trailerOf m).latched)

/-- R50: what this station puts on DLN in the ERROR slot of a message that it has received to its end. -/
def State.errorSlotPin (s : State) (m : Reception) : PinLevel := bitPin !(s.receives m && s.signalsError m)

/-- R50: what this station puts on DLN in the HOLD slot of that message. -/
def State.holdSlotPin (s : State) (m : Reception) : PinLevel := bitPin !(s.receives m && s.signalsHold m)

/-! ## Acceptance (R52) -/

/-- R55: the record of an accepted message. -/
def State.recordOf (s : State) (boundary : Bool) (m : Message) : Record :=
  { source := m.source, lock := m.lock, stamp := s.timer.period, boundary := boundary, payload := m.payload }

/-- R53, R55: the record placed at the tail when the message is queued. -/
def State.acceptQueue (s : State) (queued boundary : Bool) (m : Message) : State :=
  if queued then
    { s with line := { s.line with inbound := s.line.inbound ++ [s.recordOf boundary m] } }
  else s

/-- R31: last-e at an acceptance. -/
def newLastE (old : Byte) (p : Payload) : Byte :=
  match p with
  | .join e _ => e
  | .evict e _ => e
  | .place e _ => e
  | .shed e _ => e
  | .found period _ => period
  | .dumpOpen f => f.lastE
  | .dumpPart .. => old
  | .presence .. => old
  | .level .. => old
  | .scene .. => old
  | .sceneMore .. => old
  | .query .. => old
  | .report .. => old

/-- R59: the run state at an acceptance. -/
def newRunOwner (old : Option Nat) (lock : Bool) (source : Nat) : Option Nat :=
  if lock then some source
  else if old = some source then none
  else old

/-- R58: the source's silence counter. -/
def resetSilence (source : Nat) (ss : List Silence) : List Silence :=
  ss.map fun x => if x.station = source then { x with count := 0 } else x

/-- R31, R58, R59: last-e, run state and silence counters at an acceptance. -/
def State.acceptMarks (s : State) (m : Message) : State :=
  { s with
    line := { s.line with
      lastE := newLastE s.line.lastE m.payload, runOwner := newRunOwner s.line.runOwner m.lock m.source }
    ctl := { s.ctl with silence := resetSilence m.source s.ctl.silence } }

/-- R27: the period field a node may adopt the period number from. -/
def Payload.period? : Payload → Option Byte
  | .presence p _ _ _ => some p
  | .found p _ => some p
  | .dumpOpen f => some f.period
  | .join .. => none
  | .dumpPart .. => none
  | .evict .. => none
  | .place .. => none
  | .shed .. => none
  | .level .. => none
  | .scene .. => none
  | .sceneMore .. => none
  | .query .. => none
  | .report .. => none

/-- R27: the states in which a node adopts. -/
def StationState.adopts : StationState → Bool
  | .joinSend => true
  | .joinWait => true
  | .foundSend => true
  | .loading => false
  | .dumpReceive => false
  | .run => false
  | .halted => false

/-- R27, R28: the period number adopted from another station's message across which this node took no period start. -/
def State.acceptPeriod (s : State) (boundary : Bool) (m : Message) : State :=
  if s.ctl.station.adopts && !boundary && m.source != s.own then
    match m.payload.period? with
    | some p => { s with timer := { s.timer with period := p, adoptionWait := 0 } }
    | none => s
  else s

/-- R112, R113, R115: the line digest that a joiner judges. -/
def Payload.digest? : Payload → Option Word16
  | .found _ d => some d
  | .dumpOpen f => some f.digest
  | .join .. => none
  | .dumpPart .. => none
  | .evict .. => none
  | .place .. => none
  | .shed .. => none
  | .presence .. => none
  | .level .. => none
  | .scene .. => none
  | .sceneMore .. => none
  | .query .. => none
  | .report .. => none

/-- R112, R113, R115, R127: another station's FOUND or DUMP-OPEN halts a joiner by its digest. -/
def State.mismatched (s : State) (m : Message) : Bool :=
  (s.ctl.station == .joinWait || s.ctl.station == .foundSend) && m.source != s.own &&
    match m.payload.digest? with
    | some d => d != s.loader.digest
    | none => false

/-- R116: before the closing part, any accepted message but a DUMP-PART fails the dump, whatever its source. -/
def Payload.failsDump : Payload → Bool
  | .dumpPart _ => false
  | _ => true

/-- R54, R112, R113, R115, R116: the station controller's decision in a joining state, the digest being equal. -/
def State.acceptDecision (s : State) (boundary : Bool) (m : Message) : State :=
  match s.ctl.station with
  | .joinWait =>
    if m.source = s.own then s
    else
      match m.payload with
      | .dumpOpen f => if boundary then s else s.enterDumpReceive m.source f
      | .found .. => s.returnToJoinSend
      | _ => s
  | .foundSend =>
    if m.source = s.own then s
    else
      match m.payload with
      | .dumpOpen f => if boundary then s.returnToJoinSend else s.enterDumpReceive m.source f
      | .found .. => s.returnToJoinSend
      | _ => s
  | .dumpReceive =>
    match s.engine.build with
    | none => s
    | some b =>
      if b.closing then s
      else if m.payload.failsDump then s.failDump
      else if m.source = b.source ∧ m.lock = false then
        { s with engine := { s.engine with build := some { b with closing := true } } }
      else s
  | .loading => s
  | .joinSend => s
  | .run => s
  | .halted => s

/-- R104, R57: the sender's side of an acceptance: the attempt `a` that ended with it. -/
def State.acceptOwn (s : State) (a : Attempt) : State :=
  if s.line.restartPending then { s with line := s.line.restarted } else s.slotAccepted a

/-- R46: an own-source message that this station did not send. -/
def State.duplicate (s : State) (m : Message) : Bool := m.source == s.own && s.line.attempt.isNone

/-- R55: a period start fell between the message's start bit and the end of its HOLD slot: tracked for an attempt of the
node's own, given with the event otherwise (log entry 6). -/
def State.boundaryOf (s : State) (given : Bool) : Bool :=
  match s.line.attempt with
  | some a => a.crossed
  | none => given

/-- R52: everything an acceptance does, in the order queue, marks, period, decision, own attempt (log entry 8). The period is
adopted by the state before the decision, so an acceptance that fails a dump adopts none (R27, R107, R117: log entry 29). One that halts
takes nothing else: by DUPLICATE as R52 says, by MISMATCH since the event leaves HALTED (R107, R31, R27: log entry 29). -/
def State.accept (s : State) (queued given : Bool) (m : Message) : State :=
  if s.duplicate m then s.halt .duplicate
  else if s.mismatched m then s.halt .mismatch
  else
    let boundary := s.boundaryOf given
    let attempt := s.line.attempt
    let s := { s with line := { s.line with idle := false, attempt := none } }
    let s := s.acceptQueue queued boundary m
    let s := (s.acceptMarks m).acceptPeriod boundary m
    let s := s.acceptDecision boundary m
    match attempt with
    | some a => (s.acceptOwn a).settleSlots
    | none => s.settleSlots

/-! ## Failure (R50, R51) -/

/-- R50, R56: what this station's own signals leave: the trailer counters and the hold latch, set by a HOLD for a full queue and
cleared by a removal since that left 4 records or fewer. -/
def State.countSignals (s : State) (full error hold : Bool) : State :=
  { s with
    line := { s.line with
      idle := false
      errorsSignalled := if error then satInc s.line.errorsSignalled else s.line.errorsSignalled
      holdsSignalled := if hold then satInc s.line.holdsSignalled else s.line.holdsSignalled
      holdLatch := s.line.holdLatch || (hold && full && Config.latchRelease < s.line.inbound.length) } }

/-- R51: the ERROR slot reads dominant when this station or another pulls it. -/
def State.errorSlot (s : State) (m : Reception) (others : Bool) : Bool := others || s.signalsError m

/-- R51: the HOLD slot reads dominant when this station or another pulls it. -/
def State.holdSlot (s : State) (m : Reception) (others : Bool) : Bool := others || s.signalsHold m

/-- R51: the message fails: it has been received to its end and a trailer slot reads dominant. -/
def State.fails (s : State) (m : Reception) (othersError othersHold : Bool) : Bool :=
  s.receives m && (s.errorSlot m othersError || s.holdSlot m othersHold)

/-- R50, R51, R103: a failed message: own signals counted, and the own attempt's outcome, ERROR before HOLD. -/
def State.failMessage (s : State) (m : Reception) (othersError : Bool) : State :=
  (s.countSignals (s.trailerOf m).full (s.signalsError m) (s.signalsHold m)).attemptFailed (!s.errorSlot m othersError)

/-! ## The commands -/

/-- LINE_IDLE (R40, R38): the line has read recessive for 11 bit times. -/
def execLineIdle (s : State) : Host.Outcome State Fault Refusal :=
  if s.ctl.station.listening && s.line.attempt.isNone then
    .next { s with line := { s.line with idle := true, heard := true } }
  else .next s

/-- ATTEMPT_START (R91, R93): at an opportunity the ready slot of the lowest value builds its message and starts it. -/
def execAttemptStart (s : State) : Host.Outcome State Fault Refusal :=
  if s.opportunity then .next (State.tryBuilds allSlots.length (allSlots.filter s.ready) s).settleSlots
  else .next s

/-- R45: the message sends a recessive data bit `bit` (7..0) in character `char` (1 is the first). -/
def sendsRecessive (chars : List Byte) (char bit : Nat) : Bool :=
  1 ≤ char && bit ≤ 7 &&
    match chars[char - 1]? with
    | some c => c.getLsbD bit
    | none => false

/-- ARBITRATION_LOSS (R45, R46): a loss after the source field, character 2, is a duplicate identity. -/
def execArbitrationLoss (char bit : Nat) (s : State) : Host.Outcome State Fault Refusal :=
  match s.line.attempt with
  | none => .next s
  | some a =>
    if sendsRecessive a.message.chars char bit then
      if 3 ≤ char then .next (s.halt .duplicate) else .next s.attemptLost
    else .next s

/-- SENDER_BREAK_OFF (R45): the attempt ends as an ERROR failure. -/
def execSenderBreakOff (s : State) : Host.Outcome State Fault Refusal := .next (s.attemptFailed false)

/-- MESSAGE_ACCEPTED (R51, R52): both trailer slots read recessive, this station's own signals among what is read. -/
def execMessageAccepted (m : Reception) (s : State) : Host.Outcome State Fault Refusal :=
  if s.receives m then
    if m.toNobody then .next { s with line := { s.line with idle := false } }
    else if s.signalsError m || s.signalsHold m then .next s
    else
      match m.message with
      | some msg => .next (s.accept (s.queues m msg) m.boundary msg)
      | none => .next s
  else .next s

/-- MESSAGE_FAILED (R51). -/
def execMessageFailed (m : Reception) (othersError othersHold : Bool) (s : State) : Host.Outcome State Fault Refusal :=
  if s.fails m othersError othersHold then .next (s.failMessage m othersError) else .next s

/-- MESSAGE_CUT_SHORT (R44): the line becomes idle and the message is discarded; a sender's own characters leave no gap. -/
def execMessageCutShort (s : State) : Host.Outcome State Fault Refusal :=
  if s.ctl.station.listening && s.line.attempt.isNone then
    .next { s with line := { s.line with idle := true, heard := true } }
  else .next s

/-- R116: the timing out of a run fails a dump whose closing part has not been accepted. -/
def State.dumpOpenEnded (s : State) : Bool :=
  s.ctl.station == .dumpReceive &&
    match s.engine.build with
    | some b => !b.closing
    | none => false

/-- RUN_LOCK_TIMEOUT (R60): the line has been idle for 64 bit times with a run open. -/
def execRunLockTimeout (s : State) : Host.Outcome State Fault Refusal :=
  if s.ctl.station.listening && s.line.runOwner.isSome && s.line.attempt.isNone then
    let s := { s with line := { s.line with idle := true, heard := true, runOwner := none } }
    .next (if s.dumpOpenEnded then s.failDump else s)
  else .next s

/-- R103: the failure `f` arises and is the own attempt's, and the sixteenth of its slot. -/
def State.isAbandon (s : State) (f : FailureEvent) : Bool :=
  (match s.line.attempt with
   | some a => !s.line.restartPending && Config.attemptLimit ≤ (s.line.slots.ctl a.slot).attempts + 1
   | none => false) &&
    match f with
    | .trailer m e h => s.fails m e h
    | .breakOff => true

/-- ABANDON (R103, R105): the failure that is the sixteenth of the attempt's slot; it abandons the slot in its event. -/
def execAbandon (f : FailureEvent) (s : State) : Host.Outcome State Fault Refusal :=
  if s.isAbandon f then
    match f with
    | .trailer m e _ => .next (s.failMessage m e)
    | .breakOff => .next (s.attemptFailed false)
  else .next s

end Sys2Proof.Machine
end

