-- ==== Sys2Proof/Machine/Output.lean ====
section
/-! DEFINITION. The sense monitors (R155 to R157). -/

namespace Sys2Proof.Machine

/-- R155: the slot in whose middle the sample point of a placement lies, for a placement long enough to be sampled. -/
def Placement.sampleSlot (p : Placement) : Option Nat := if 4 ≤ p.len then some (p.start + p.len / 2) else none

/-- R155: the timer stands in the slot of channel `n`'s sample point, and a sample there is a driven sample. -/
def State.samples (s : State) (n : Num4) : Bool :=
  (s.out.chan.get n).senseEnable && (s.out.chan.get n).plan.bind Placement.sampleSlot == some s.timer.slot
    && s.outActive n

/-- R156: the low count of channel `n` set. -/
def State.setLowCount (s : State) (n : Num4) (count : Nat) : State :=
  { s with out := { s.out with chan := s.out.chan.set n { s.out.chan.get n with lowCount := count } } }

/-- R146, R154, R157: OPEN reported for channel `n`: the low count 0, the channel FAULTED, its fault hold flag set. An UNUSED
channel stays UNUSED (log entry 18). -/
def State.reportOpen (s : State) (n : Num4) : State :=
  let c := s.chans.get n
  { s with
    chans := s.chans.set n (c.opened (s.holdsEntry n))
    out := { s.out with
      chan := s.out.chan.set n
        { s.out.chan.get n with
          lowCount := 0, faultHold := (s.out.chan.get n).faultHold || decide (c.state ≠ .unused) } } }

/-- R156, R157: a driven sample of channel `n`. -/
def State.sample (s : State) (n : Num4) (high : Bool) : State :=
  let count := (s.out.chan.get n).lowCount
  if high then s.setLowCount n 0
  else if count < 3 then s.setLowCount n (count + 1)
  else (s.reportOpen n).settleSlots

/-- SENSE_SAMPLE (R155): at a sample point that is no driven sample nothing is taken. -/
def execSenseSample (channel : Num4) (high : Bool) (s : State) : Host.Outcome State Fault Refusal :=
  if s.samples channel then .next (s.sample channel high) else .next s

end Sys2Proof.Machine
end

