-- ==== Sys2Proof/Machine/Startup.lean ====
section
/-! DEFINITION. Cold reset and LOADING (Chapter 10): the straps, the image and its validation, the values the blocks take. -/

namespace Sys2Proof.Machine

/-! ## Cold reset (R173) -/

/-- R173, R129: a cold reset; `cause` is the halt cause after it. The queue of commands is outside the part and stands, and
so does the model's count of free values (log entries 13 and 14). -/
def State.coldReset (s : State) (cause : HaltCause) : State :=
  { State.reset with
    pending := s.pending, freeIndex := s.freeIndex, ctl := { State.reset.ctl with haltCause := cause } }

/-- COLD_RESET (R173). Whether a pulse shorter than 1 µs is taken is a free value (log entry 2). -/
def execColdReset (cause : ResetCause) (s : State) : Host.Outcome State Fault Refusal :=
  match cause with
  | .powerOn => .next (s.coldReset .none)
  | .resetn => .next (s.coldReset s.ctl.haltCause)
  | .shortPulse =>
    let s' := { s with freeIndex := s.freeIndex + 1 }
    .next (if Config.shortResetTaken s.freeIndex then s'.coldReset s.ctl.haltCause else s')

/-! ## The straps (R174) -/

/-- R174: a strap identity that a station may have. -/
def strapOk (n : Nat) : Bool := 1 ≤ n && n ≤ 30

/-- R173, R174: the loader is about to read the straps. -/
def State.loaderWaits (s : State) : Bool := s.ctl.station == .loading && s.loader.phase == .waiting

/-- CONFIGURATION_LOADER_START (R174): the straps read, ID4 most significant; 0 and 31 halt the station, any other begins
the read transaction (R175), which has a free value of its own (log entry 34). -/
def execConfigurationLoaderStart (straps : BitVec 5) (s : State) : Host.Outcome State Fault Refusal :=
  if s.loaderWaits then
    let s' := { s with loader := { s.loader with strap := straps.toNat } }
    if strapOk straps.toNat then
      .next
        { s' with
          freeIndex := s.freeIndex + 1
          loader := { s'.loader with phase := .reading, pins := .transaction } }
    else .next (s'.halt .strap)
  else .next s

/-! ## The read (R175) -/

/-- R175: the level of CMISO at the rising edge of CCK cycle `k`; the pull-up holds it high where the memory drives nothing. -/
def cmisoLevel (memory : List (Option Bool)) (k : Nat) : Bool := (memory.getD k none).getD true

/-- R175: byte `k` of the read, most significant bit first, in the eight CCK cycles after the command, the address and the bytes
before it. -/
def readByte (memory : List (Option Bool)) (k : Nat) : Byte :=
  BitVec.ofNat 8
    ((List.range 8).foldl (fun v i => 2 * v + (cmisoLevel memory (commandCycles + 8 * k + i)).toNat) 0)

/-- R175: the image read, byte 0 first. -/
def readImage (memory : List (Option Bool)) : List Byte := (List.range Config.imageBytes).map (readByte memory)

/-! ## The image (R176, R177, 11.6) -/

/-- R175: image byte `k`, 255 beyond the end of the list (log entry 19). -/
def imageByte (image : List Byte) (k : Nat) : Byte := image.getD k 255

/-- The first `n` image bytes. -/
def imageHead (image : List Byte) (n : Nat) : List Byte := (List.range n).map (imageByte image)

/-- 11.6: the line parameters of the image. -/
def imageParams (image : List Byte) : LineParams :=
  { rateCode := (imageByte image 2).toNat, slotCode := (imageByte image 3).toNat, guard := (imageByte image 4).toNat
    budget := (imageByte image 5).toNat * 256 + (imageByte image 6).toNat, presence := (imageByte image 7).toNat }

/-- R176, R177: the ranges of the line parameters. -/
def LineParams.valid (p : LineParams) : Bool :=
  p.rateCode ≤ 2 && p.slotCode ≤ 2 && p.guard ≤ 8 && 1 ≤ p.budget && p.budget ≤ 1023 && 16 ≤ p.presence
    && p.presence ≤ 255 && validPair p.rateCode p.slotCode

/-- R176: the ranges of channel block `n`. -/
def channelBlockOk (image : List Byte) (n : Num4) : Bool :=
  (imageByte image (8 + 4 * n.val)).toNat ≤ 63 && (imageByte image (9 + 4 * n.val)).toNat ≤ 2
    && (imageByte image (10 + 4 * n.val)).toNat ≤ 128

/-- R176: the ranges of key block `n`. -/
def keyBlockOk (image : List Byte) (n : Num4) : Bool :=
  (imageByte image (24 + 5 * n.val)).toNat ≤ 1 && (imageByte image (25 + 5 * n.val)).toNat ≤ 30
    && (imageByte image (26 + 5 * n.val)).toNat ≤ 15 && 4 ≤ (imageByte image (27 + 5 * n.val)).toNat
    && (imageByte image (28 + 5 * n.val)).toNat ≤ 6

/-- R176: the hold time and the step size. -/
def sharedOk (image : List Byte) : Bool :=
  4 ≤ (imageByte image 44).toNat && 1 ≤ (imageByte image 45).toNat && (imageByte image 45).toNat ≤ 32

/-- R176: the signature and the check. -/
def imageFrameOk (image : List Byte) : Bool :=
  imageByte image 0 == 0x5A && imageByte image 1 == 0x4B
    && weightedSum (imageHead image 62) == wordOf (imageByte image 62) (imageByte image 63)

/-- R176: the image is valid. -/
def imageValid (image : List Byte) : Bool :=
  imageFrameOk image && (imageParams image).valid && allFour.all (channelBlockOk image) && allFour.all (keyBlockOk image)
    && sharedOk image

/-- R179: the line digest. -/
def lineDigest (image : List Byte) : Word16 := weightedSum ((List.range 6).map fun k => imageByte image (k + 2))

/-! ## The values taken (R178) -/

/-- R150: a channel record from the image. -/
def imageChannel (image : List Byte) (a : Nat) (n : Num4) : Channel :=
  .fromImage a (imageByte image (8 + 4 * n.val)).toNat (imageByte image (9 + 4 * n.val)).toNat
    (imageByte image (10 + 4 * n.val)).toNat

/-- R153, R155: a channel's polarity, drive type and sense enable from its flags. -/
def OutChannel.configure (flags : Byte) (c : OutChannel) : OutChannel :=
  { c with
    polarity := if flags.getLsbD 0 then .activeLow else .activeHigh
    drive := if flags.getLsbD 1 then .openDrain else .pushPull
    senseEnable := flags.getLsbD 2 }

/-- R158: the output stage takes its configuration. -/
def OutputStage.configure (image : List Byte) (o : OutputStage) : OutputStage :=
  { o with
    configured := true
    chan := .tabulate fun n => (o.chan.get n).configure (imageByte image (11 + 4 * n.val)) }

/-- R160, R172: a key record from the image; the working items 0 and the ramp direction up. -/
def Key.fromImage (image : List Byte) (n : Num4) : Key :=
  { Key.untaken with
    enable := imageByte image (24 + 5 * n.val) == 1
    bound := (imageByte image (25 + 5 * n.val)).toNat
    mask := BitVec.ofNat 4 (imageByte image (26 + 5 * n.val)).toNat
    threshold := (imageByte image (27 + 5 * n.val)).toNat
    divider := (imageByte image (28 + 5 * n.val)).toNat
    state := if imageByte image (24 + 5 * n.val) = 1 then .calibrating else .disabled }

/-- R160, R172: the touch key unit takes its configuration. -/
def TouchUnit.configure (image : List Byte) (t : TouchUnit) : TouchUnit :=
  { t with
    key := .tabulate (Key.fromImage image)
    holdTime := 4 * (imageByte image 44).toNat
    stepSize := (imageByte image 45).toNat }

/-- R178, R28, R38, R108: the end of LOADING with a valid image: every block takes its values, and the station enters
JOIN-SEND with a JOIN in its slot and the adoption wait at 4P. The rejoin counter stands (R109). -/
def State.configure (s : State) (image : List Byte) : State :=
  let p := imageParams image
  { s with
    loader := { s.loader with phase := .finished, digest := lineDigest image, pins := .atRest }
    cfg := p
    timer := { slot := 0, period := 0, started := false, slnPull := false, adoptionWait := 4 * p.presence }
    line :=
      { s.line with
        idle := false, heard := false, slots := { s.line.slots with joinFoundHolds := some .join } }
    chans := .tabulate (imageChannel image p.placeable)
    out := s.out.configure image
    ctl := { s.ctl with station := .joinSend }
    touch := s.touch.configure image }

/-- R174: the loader is reading the memory. -/
def State.loaderReads (s : State) : Bool := s.ctl.station == .loading && s.loader.phase == .reading

/-- CONFIGURATION_READ_COMPLETE (R174, R175, R176): the image read is judged; an invalid one halts the station, with no value
taken. -/
def execConfigurationReadComplete (memory : List (Option Bool)) (s : State) : Host.Outcome State Fault Refusal :=
  if s.loaderReads then
    let image := readImage memory
    if imageValid image then .next (s.configure image)
    else .next ({ s with loader := { s.loader with pins := .atRest } }.halt .config)
  else .next s

end Sys2Proof.Machine
end

