-- ==== Sys2Proof/Machine/Keys.lean ====
section
/-! DEFINITION. Touch keys (Chapter 9): the end of a measurement and a key's share of a period start. -/

namespace Sys2Proof.Machine

/-- R161: the key states that a round measures. -/
def KeyState.measured : KeyState → Bool
  | .calibrating => true
  | .released => true
  | .pressed => true
  | .holding => true
  | .unset => false
  | .disabled => false
  | .faultOverflow => false
  | .faultLow => false

/-- R161: the first key of a list that a round measures. -/
def TouchUnit.nextKey (t : TouchUnit) (ks : List Num4) : Option Num4 :=
  ks.find? fun k => (t.key.get k).state.measured

/-- R161: the keys after `k` in key order. -/
def keysAfter (k : Num4) : List Num4 := allFour.filter fun x => k.val < x.val

/-- R163: what the fault runs make of a value. -/
inductive FaultJudgement where
  | none (overflowRun shortRun : Nat)
  | overflow
  | low
  deriving DecidableEq, Repr

/-- R163: the fault runs judged. -/
def Key.judgeFault (k : Key) (v : Nat) : FaultJudgement :=
  if v = Config.countLimit then
    if 4 ≤ k.overflowRun + 1 then .overflow else .none (k.overflowRun + 1) 0
  else if v < Config.shortBelow then
    if 4 ≤ k.shortRun + 1 then .low else .none 0 (k.shortRun + 1)
  else .none 0 0

/-- R163: entry to a fault state. -/
def Key.fault (k : Key) (st : KeyState) : Key :=
  { k with
    state := st, overflowRun := 0, shortRun := 0, touchRun := 0, noTouchRun := 0, tracking := 0, hold := 0 }

/-- R164: a measurement in CALIBRATING. -/
def Key.calibrate (k : Key) (v : Nat) : Key :=
  let k := { k with calCount := k.calCount + 1, calSum := k.calSum + v }
  if 8 ≤ k.calCount then
    { k with state := .released, baseline := k.calSum / 8, touchRun := 0, noTouchRun := 0, tracking := 0 }
  else k

/-- R165: a reading. -/
inductive Reading where
  | touch
  | noTouch
  | neither
  deriving DecidableEq, Repr

/-- R165: the reading of value `v`. -/
def Key.reading (k : Key) (v : Nat) : Reading :=
  if k.baseline + k.threshold ≤ v then .touch
  else if v ≤ k.baseline + k.threshold / 2 then .noTouch
  else .neither

/-- R166: the tracking step of a measurement in RELEASED. -/
def Key.track (r : Reading) (v : Nat) (k : Key) : Key :=
  if 16 ≤ k.tracking + 1 then
    { k with
      tracking := 0
      baseline :=
        if r = .touch then k.baseline
        else if k.baseline < v then k.baseline + 1
        else if v < k.baseline then k.baseline - 1
        else k.baseline }
  else { k with tracking := k.tracking + 1 }

/-- R167: a key enters PRESSED. -/
def Key.press (k : Key) : Key := { k with state := .pressed, touchRun := 0, noTouchRun := 0, hold := 0, tracking := 0 }

/-- R167, R169: a key returns to RELEASED. -/
def Key.release (k : Key) : Key := { k with state := .released, touchRun := 0, noTouchRun := 0, hold := 0, tracking := 0 }

/-- R169: the ramp direction turns. -/
def Ramp.turn : Ramp → Ramp
  | .up => .down
  | .down => .up

/-- R165 to R167: a measurement in RELEASED. -/
def Key.measureReleased (k : Key) (v : Nat) : Key :=
  match k.reading v with
  | .touch =>
    if 3 ≤ k.touchRun + 1 then k.press
    else Key.track .touch v { k with touchRun := k.touchRun + 1, noTouchRun := 0 }
  | .noTouch =>
    Key.track .noTouch v { k with touchRun := 0, noTouchRun := if 3 ≤ k.noTouchRun + 1 then 0 else k.noTouchRun + 1 }
  | .neither => Key.track .neither v k

/-- R165, R167, R169: a measurement in PRESSED or HOLDING; the second component says that the key is released. -/
def Key.measureHeld (k : Key) (v : Nat) : Key × Bool :=
  match k.reading v with
  | .touch => ({ k with touchRun := 0, noTouchRun := 0 }, false)
  | .noTouch =>
    if 3 ≤ k.noTouchRun + 1 then (k.release, true)
    else ({ k with touchRun := 0, noTouchRun := k.noTouchRun + 1 }, false)
  | .neither => (k, false)

/-- R162 to R169: the end of a measurement at its key; the second component says that the key gives a TOGGLE. -/
def Key.measure (k : Key) (v : Nat) : Key × Bool :=
  let k := { k with last := v }
  match k.judgeFault v with
  | .overflow => (k.fault .faultOverflow, false)
  | .low => (k.fault .faultLow, false)
  | .none o sh =>
    let k := { k with overflowRun := o, shortRun := sh }
    match k.state with
    | .calibrating => (k.calibrate v, false)
    | .released => (k.measureReleased v, false)
    | .pressed => k.measureHeld v
    | .holding =>
      let (k', rel) := k.measureHeld v
      (if rel then { k' with ramp := k'.ramp.turn } else k', false)
    | .unset => (k, false)
    | .disabled => (k, false)
    | .faultOverflow => (k, false)
    | .faultLow => (k, false)

/-! ## Period starts (R168, R170) -/

/-- R168: the operation of a step. -/
def Ramp.step : Ramp → LevelOp
  | .up => .stepUp
  | .down => .stepDown

/-- R170: a forced release. -/
def Key.forceRelease (k : Key) : Key :=
  { k with
    state := .calibrating, hold := 0, calCount := 0, calSum := 0, touchRun := 0, noTouchRun := 0, tracking := 0 }

/-- R168: the key is in PRESSED or HOLDING. -/
def Key.held (k : Key) : Bool := k.state == .pressed || k.state == .holding

/-- R168: the hold timer reaches H at the next period start, in PRESSED. -/
def Key.reachesHold (holdTime : Nat) (k : Key) : Bool := k.state == .pressed && k.hold + 1 == holdTime

/-- R168: the hold timer reaches H + 4, H + 8 and so on at the next period start, in HOLDING, before 4096. -/
def Key.reachesStep (holdTime : Nat) (k : Key) : Bool :=
  k.state == .holding && holdTime < k.hold + 1 && (k.hold + 1 - holdTime) % 4 == 0 && k.hold + 1 < Config.holdTimerLimit

/-- R170: the hold timer reaches 4096 at the next period start. -/
def Key.reachesLimit (k : Key) : Bool := k.held && Config.holdTimerLimit ≤ k.hold + 1

/-- R168, R170: a key at a period start; the second component is the step it gives. -/
def Key.atPeriodStart (holdTime : Nat) (k : Key) : Key × Option LevelOp :=
  if k.reachesLimit then (k.forceRelease, none)
  else if k.reachesHold holdTime then ({ k with state := .holding, hold := k.hold + 1 }, some k.ramp.step)
  else if k.reachesStep holdTime then ({ k with hold := k.hold + 1 }, some k.ramp.step)
  else if k.held then ({ k with hold := k.hold + 1 }, none)
  else (k, none)

/-- R168: one key's share of a period start, its step handed on in the event. -/
def State.keyPeriodStart (s : State) (k : Num4) : State :=
  let (key, op) := (s.touch.key.get k).atPeriodStart s.touch.holdTime
  let s := { s with touch := { s.touch with key := s.touch.key.set k key } }
  match op with
  | some o => s.keyOperation k o s.touch.stepSize
  | none => s

/-- R168: the steps of the keys at a period start, in key order. -/
def State.keySteps (s : State) : State :=
  (((s.keyPeriodStart 0).keyPeriodStart 1).keyPeriodStart 2).keyPeriodStart 3

/-- R161: a round begins, if none is under way. -/
def State.beginRound (s : State) : State :=
  { s with
    touch := { s.touch with
      scan := match s.touch.scan with
        | some k => some k
        | none => s.touch.nextKey allFour } }

/-- R161, R168: the touch key unit at a period start: the steps, then the round. -/
def State.touchPeriodStart (s : State) : State := s.keySteps.beginRound

/-! ## MEASUREMENT_END -/

/-- MEASUREMENT_END (R162): the key under measurement takes its value; the round goes on to the next key or ends. -/
def execMeasurementEnd (key : Num4) (value : BitVec 12) (s : State) : Host.Outcome State Fault Refusal :=
  if s.touch.scan = some key ∧ s.ctl.station.timerRuns = true then
    let (k, toggle) := (s.touch.key.get key).measure value.toNat
    let t := { s.touch with key := s.touch.key.set key k }
    let s := { s with touch := { t with scan := t.nextKey (keysAfter key) } }
    .next (if toggle then s.keyOperation key .toggle 0 else s)
  else .next s

end Sys2Proof.Machine
end

