-- ==== Sys2Proof/Machine/Timer.lean ====
section
/-! DEFINITION. Period starts (R22 to R25), what each block does at one, and the events that happen at a period start. -/

namespace Sys2Proof.Machine

/-! ## The blocks at a period start -/

/-- R34: a queued state-changing record whose e is not after period `p`. -/
def lateAt (p : Byte) (q : List Record) : Bool :=
  q.any fun r =>
    match r.payload.e with
    | some e => !isAfter p e
    | none => false

/-- R37, R156: a Pending Change Queue entry applied to its channel; a change of placement sets the low count to 0. -/
def applyPending (o : Four OutChannel) (x : PendingChange) : Four OutChannel :=
  let c := o.get x.channel
  o.set x.channel { c with plan := x.placement, lowCount := if x.placement = c.plan then c.lowCount else 0 }

/-- R159, R34, R35, R37: the output stage at period start `p` of a station in RUN. -/
def OutputStage.periodStart (o : OutputStage) (p : Byte) (late : Bool) : OutputStage :=
  { o with
    blank := late
    late := if late then satInc o.late else o.late
    chan := (o.pending.filter fun x => x.e == p).foldl applyPending o.chan
    pending := o.pending.filter fun x => x.e != p }

/-- R154: the fault hold flags at a period start: cleared where the channel is not FAULTED. -/
def OutputStage.clearHolds (chans : Four Channel) (o : OutputStage) : OutputStage :=
  { o with
    chan := .tabulate fun n =>
      if (chans.get n).state = .faulted then o.chan.get n else { o.chan.get n with faultHold := false } }

/-- The output stage at a period start (log entry 11 for the fault hold flags outside RUN). -/
def State.outputPeriodStart (s : State) : State :=
  let o :=
    if s.ctl.station = .run then s.out.periodStart s.timer.period (lateAt s.timer.period s.line.inbound) else s.out
  { s with out := o.clearHolds s.chans }

/-- R111: the join wait at a period start. -/
def State.joinWaitPeriodStart (s : State) : State :=
  if s.ctl.station = .joinWait ∧ 0 < s.ctl.joinWait then
    if s.ctl.joinWait = 1 then s.enterFoundSend
    else { s with ctl := { s.ctl with joinWait := s.ctl.joinWait - 1 } }
  else s

/-- R120: the presence countdown at a period start in RUN; at 0 a PRESENCE becomes owed. -/
def State.presencePeriodStart (s : State) : State :=
  if s.ctl.station = .run ∧ 0 < s.ctl.presence then
    let s' := { s with ctl := { s.ctl with presence := s.ctl.presence - 1 } }
    if s.ctl.presence = 1 then
      { s' with line := { s'.line with slots := { s'.line.slots with presenceWork := true } } }
    else s'
  else s

/-- R121: the silence counters at a period start in RUN. -/
def State.silencePeriodStart (s : State) : State :=
  if s.ctl.station = .run then
    { s with
      ctl := { s.ctl with
        silence := s.ctl.silence.map fun x => { x with count := min (x.count + 1) Config.silenceLimit } } }
  else s

/-- R25: the station controller at a period start. -/
def State.controllerPeriodStart (s : State) : State :=
  s.joinWaitPeriodStart.presencePeriodStart.silencePeriodStart

/-- R103, R105, R55: the line interface at a period start: held marks cleared, cooldown counted down, an attempt under way
crossed. -/
def State.linePeriodStart (s : State) : State :=
  let t := s.line.slots.clearHeld
  { s with
    line := { s.line with
      slots := { t with cooldown := t.cooldown - 1 }
      attempt := s.line.attempt.map fun a => { a with crossed := true } } }

/-- R23 to R25, R28: a period start, `pull` when the node's own count ended; the blocks in the order of R25's list. The fault hold
flags are judged before the key steps of the same period start: the model's order (log entry 33). -/
def State.periodStart (s : State) (pull : Bool) : State :=
  let t := s.timer
  let s :=
    { s with
      timer :=
        { slot := 0, period := t.period + 1, started := true, slnPull := pull, adoptionWait := t.adoptionWait - 1 } }
  s.outputPeriodStart.touchPeriodStart.controllerPeriodStart.linePeriodStart

/-- R23: the running timer is at the end of slot 127 with no period start taken. -/
def State.countEnded (s : State) : Bool := s.ctl.station.timerRuns && s.timer.slot == 127

/-- R24: an edge on SLN is taken as a period start. -/
def State.edgeTaken (s : State) : Bool :=
  s.ctl.station.timerRuns && (!s.timer.started || Config.edgeGuard ≤ s.timer.slot)

/-- R23, R24: a period start from this source arises. -/
def State.startArises (s : State) : StartSource → Bool
  | .endOfCount => s.countEnded
  | .slnEdge => s.edgeTaken

/-- The period start from this source, when it arises and `here` holds; otherwise there is no such event. -/
def State.periodStartIf (s : State) (src : StartSource) (here : Bool) : State :=
  if here && s.startArises src then s.periodStart (src == .endOfCount) else s

/-! ## The commands -/

/-- PERIOD_END_OF_COUNT (R23). -/
def execPeriodEndOfCount (s : State) : Host.Outcome State Fault Refusal := .next (s.periodStartIf .endOfCount true)

/-- SLN_FALLING_EDGE (R24). -/
def execSlnFallingEdge (s : State) : Host.Outcome State Fault Refusal := .next (s.periodStartIf .slnEdge true)

/-- SLOT_BOUNDARY (R22): the slot counter advances; the own SLN pull ends with slot 0 (R23). The end of slot 127 is
PERIOD_END_OF_COUNT's. -/
def execSlotBoundary (s : State) : Host.Outcome State Fault Refusal :=
  if s.ctl.station.timerRuns && s.timer.slot < 127 then
    .next { s with timer := { s.timer with slot := s.timer.slot + 1, slnPull := false } }
  else .next s

/-- ADOPTION_WAIT_EXPIRY (R28): the period start at which the adoption wait runs out. -/
def execAdoptionWaitExpiry (src : StartSource) (s : State) : Host.Outcome State Fault Refusal :=
  .next (s.periodStartIf src (s.timer.adoptionWait == 1))

/-- JOIN_WAIT_EXPIRY (R111): the period start at which the join wait runs out. -/
def execJoinWaitExpiry (src : StartSource) (s : State) : Host.Outcome State Fault Refusal :=
  .next (s.periodStartIf src (s.ctl.station == .joinWait && s.ctl.joinWait == 1))

/-- PRESENCE_COUNTDOWN_EXPIRY (R120): the period start at which the presence countdown reaches 0. -/
def execPresenceCountdownExpiry (src : StartSource) (s : State) : Host.Outcome State Fault Refusal :=
  .next (s.periodStartIf src (s.ctl.station == .run && s.ctl.presence == 1))

/-- SILENCE_LIMIT (R122): the period start at which a roster station's silence counter reaches 4P. -/
def execSilenceLimit (station : Nat) (src : StartSource) (s : State) : Host.Outcome State Fault Refusal :=
  .next
    (s.periodStartIf src
      (s.ctl.station == .run && s.ctl.silence.any (fun x => x.station == station && x.count + 1 == s.evictAt)))

/-- PLACE_COOLDOWN_EXPIRY (R105): the period start at which the PLACE cooldown reaches 0. -/
def execPlaceCooldownExpiry (src : StartSource) (s : State) : Host.Outcome State Fault Refusal :=
  .next (s.periodStartIf src (s.line.slots.cooldown == 1))

/-- HOLD_TIME_REACHED (R168): the period start at which the key's hold timer reaches H. -/
def execHoldTimeReached (key : Num4) (src : StartSource) (s : State) : Host.Outcome State Fault Refusal :=
  .next (s.periodStartIf src ((s.touch.key.get key).reachesHold s.touch.holdTime))

/-- HOLD_STEP (R168): a period start at which the key's hold timer reaches H + 4, H + 8 and so on. -/
def execHoldStep (key : Num4) (src : StartSource) (s : State) : Host.Outcome State Fault Refusal :=
  .next (s.periodStartIf src ((s.touch.key.get key).reachesStep s.touch.holdTime))

/-- FORCED_RELEASE (R170): the period start at which the key's hold timer reaches 4096. -/
def execForcedRelease (key : Num4) (src : StartSource) (s : State) : Host.Outcome State Fault Refusal :=
  .next (s.periodStartIf src (s.touch.key.get key).reachesLimit)

end Sys2Proof.Machine
end

