-- ==== Sys2Proof/Machine/Dispatch.lean ====
section
/-! DEFINITION. One arm per command: its meaning. -/

namespace Sys2Proof.Machine

def exec (i : Instr) (s : State) : Host.Outcome State Fault Refusal :=
  match i with
  | .coldReset cause => Sys2Proof.Machine.execColdReset cause s
  | .configurationLoaderStart straps => Sys2Proof.Machine.execConfigurationLoaderStart straps s
  | .configurationReadComplete memory => Sys2Proof.Machine.execConfigurationReadComplete memory s
  | .periodEndOfCount => Sys2Proof.Machine.execPeriodEndOfCount s
  | .slnFallingEdge => Sys2Proof.Machine.execSlnFallingEdge s
  | .slotBoundary => Sys2Proof.Machine.execSlotBoundary s
  | .lineIdle => Sys2Proof.Machine.execLineIdle s
  | .attemptStart => Sys2Proof.Machine.execAttemptStart s
  | .arbitrationLoss char bit => Sys2Proof.Machine.execArbitrationLoss char bit s
  | .senderBreakOff => Sys2Proof.Machine.execSenderBreakOff s
  | .messageAccepted m => Sys2Proof.Machine.execMessageAccepted m s
  | .messageFailed m othersError othersHold => Sys2Proof.Machine.execMessageFailed m othersError othersHold s
  | .messageCutShort => Sys2Proof.Machine.execMessageCutShort s
  | .runLockTimeout => Sys2Proof.Machine.execRunLockTimeout s
  | .abandon f => Sys2Proof.Machine.execAbandon f s
  | .applyPlace => Sys2Proof.Machine.execApplyPlace s
  | .applyJoin => Sys2Proof.Machine.execApplyJoin s
  | .applyEvict => Sys2Proof.Machine.execApplyEvict s
  | .applyShed => Sys2Proof.Machine.execApplyShed s
  | .applyDumpOpen => Sys2Proof.Machine.execApplyDumpOpen s
  | .applyDumpPart => Sys2Proof.Machine.execApplyDumpPart s
  | .applyPresence => Sys2Proof.Machine.execApplyPresence s
  | .applyLevel => Sys2Proof.Machine.execApplyLevel s
  | .applyScene => Sys2Proof.Machine.execApplyScene s
  | .applySceneMore => Sys2Proof.Machine.execApplySceneMore s
  | .applyQuery => Sys2Proof.Machine.execApplyQuery s
  | .discardRecord => Sys2Proof.Machine.execDiscardRecord s
  | .adoptionWaitExpiry src => Sys2Proof.Machine.execAdoptionWaitExpiry src s
  | .joinWaitExpiry src => Sys2Proof.Machine.execJoinWaitExpiry src s
  | .presenceCountdownExpiry src => Sys2Proof.Machine.execPresenceCountdownExpiry src s
  | .silenceLimit station src => Sys2Proof.Machine.execSilenceLimit station src s
  | .placeCooldownExpiry src => Sys2Proof.Machine.execPlaceCooldownExpiry src s
  | .measurementEnd key value => Sys2Proof.Machine.execMeasurementEnd key value s
  | .holdTimeReached key src => Sys2Proof.Machine.execHoldTimeReached key src s
  | .holdStep key src => Sys2Proof.Machine.execHoldStep key src s
  | .forcedRelease key src => Sys2Proof.Machine.execForcedRelease key src s
  | .senseSample channel high => Sys2Proof.Machine.execSenseSample channel high s

end Sys2Proof.Machine
end

