-- ==== Sys2Proof/Safety.lean ====
section
/-! DEFINITION. What holds of the node between events: the laws of the replica, the queues, the slots, the channels and the
keys, each as a predicate on State, and the form of a message. -/

namespace Sys2Proof.Machine

/-! ## The replica (R5, R7, R9, R11) -/

/-- R9: the units of the entries whose on-intervals cover slot `k`, summed. -/
def claimedAt (cs : List Claim) (k : Nat) : Nat := ((cs.filter fun c => c.covers k).map (·.units)).sum

/-- R9: the Slot Map has 128 counts, and each is the sum of the units of the entries that cover its slot. -/
def MapAgrees (cs : List Claim) (m : List Nat) : Prop :=
  m.length = Config.slots ∧ ∀ k < Config.slots, occupancy m k = claimedAt cs k

/-- R9: no slot holds more than `budget`. -/
def MapWithin (budget : Nat) (m : List Nat) : Prop := ∀ k < Config.slots, occupancy m k ≤ budget

/-- R9: the law of the Slot Map, for a replica and for a dump build (R85). -/
def MapLaw (budget : Nat) (cs : List Claim) (m : List Nat) (shed : Num4) : Prop :=
  MapAgrees cs m ∧ MapWithin (effectiveBudget budget shed) m

/-- R82: there is a dump build in DUMP-RECEIVE only. -/
def BuildPlaced (s : State) : Prop := s.engine.build.isSome = true → s.ctl.station = .dumpReceive

/-- R9: the law of the Slot Map in RUN, and of the occupancy of a dump build under way. -/
def SlotMapLaw (s : State) : Prop :=
  (s.ctl.station = .run →
    MapLaw s.cfg.budget s.engine.replica.claims s.engine.replica.slotMap s.engine.replica.shed) ∧
  (∀ b, s.engine.build = some b → MapLaw s.cfg.budget b.claims b.occupancy b.shed) ∧
  BuildPlaced s

/-- R90: the JOIN/FOUND slot holds a FOUND in FOUND-SEND only. -/
def FoundPlaced (s : State) : Prop := s.line.slots.joinFoundHolds = some .found → s.ctl.station = .foundSend

/-- R90, R106: an attempt of the PRESENCE slot was begun in RUN, and outside RUN its outcome touches no slot (R57). -/
def PresencePlaced (s : State) : Prop :=
  ∀ a, s.line.attempt = some a → a.slot = .presence → s.ctl.station = .run ∨ s.line.restartPending = true

/-- R5, R15, R37, R64, R120, R121, R123, R158: what a station outside RUN holds nothing of. -/
def EmptyOutsideRun (s : State) : Prop :=
  (s.ctl.station ≠ .run →
    s.engine.replica = .empty ∧ s.engine.heldCheck = 0 ∧ s.engine.dumpOwed = false ∧ s.engine.witnesses = [] ∧
    s.engine.mismatches = 0 ∧ s.out.pending = [] ∧ s.out.blank = false ∧
    (∀ n, (s.out.chan.get n).plan = none ∧ (s.out.chan.get n).lowCount = 0) ∧
    s.ctl.presence = 0 ∧ s.ctl.silence = []) ∧
  (s.ctl.station ≠ .joinWait → s.ctl.joinWait = 0) ∧
  BuildPlaced s ∧ FoundPlaced s ∧ PresencePlaced s

/-- R11: stations rise strictly along a Roster and lie in 1..30. -/
def RosterLaw (ms : List Member) : Prop :=
  ms.Pairwise (fun a b => a.station < b.station) ∧ ∀ m ∈ ms, 1 ≤ m.station ∧ m.station ≤ 30

/-- R7: at most one entry per (station, channel); every entry is for a roster station, lies in slots G..127 − G and has
length 1 or more. -/
def ClaimsLaw (guard : Nat) (ms : List Member) (cs : List Claim) : Prop :=
  cs.Pairwise (fun a b => a.station ≠ b.station ∨ a.channel ≠ b.channel) ∧
  ∀ c ∈ cs, isMember ms c.station = true ∧ guard ≤ c.start ∧ 1 ≤ c.len ∧ c.start + c.len ≤ Config.slots - guard

/-- R7, R11: the Roster and the Claim List in RUN and in a dump build, with what the queue must hold for it: sources that are
station identities (R55). -/
def MembershipLaw (s : State) : Prop :=
  (s.ctl.station = .run →
    RosterLaw s.engine.replica.roster ∧ isMember s.engine.replica.roster s.own = true ∧
    ClaimsLaw s.cfg.guard s.engine.replica.roster s.engine.replica.claims) ∧
  (∀ b, s.engine.build = some b → RosterLaw b.roster ∧ ClaimsLaw s.cfg.guard b.roster b.claims) ∧
  (∀ r ∈ s.line.inbound, 1 ≤ r.source ∧ r.source ≤ 30) ∧
  (s.ctl.station.listening = true ∨ s.loader.phase = .reading → 1 ≤ s.own ∧ s.own ≤ 30) ∧
  BuildPlaced s

/-- R15, R119, R121: in RUN the held check is that of the replica, the own incarnation that of the own Roster entry, and the
silence counters are those of the Roster's other stations, one each. -/
def RunLaw (s : State) : Prop :=
  s.ctl.station = .run →
    s.engine.heldCheck = stateCheck s.engine.replica ∧
    memberOf s.engine.replica.roster s.own = some { station := s.own, incarnation := s.ctl.ownIncarnation } ∧
    (s.ctl.silence.map (·.station)).Nodup ∧
    ∀ st, (∃ x ∈ s.ctl.silence, x.station = st) ↔ isMember s.engine.replica.roster st = true ∧ st ≠ s.own

/-- R38, R57: a station that does not listen has no attempt under way, and a restart of the line interface waits for the end of an
attempt only. -/
def AttemptLaw (s : State) : Prop :=
  (s.ctl.station.listening = false → s.line.attempt = none) ∧
  (s.line.restartPending = true → s.line.attempt.isSome = true)

/-! ## Queues and slots (R36, R55, R90) -/

/-- R55: the inbound queue holds at most 8 records. -/
def QueueBounded (s : State) : Prop := s.line.inbound.length ≤ Config.queueLimit

/-- R36: in RUN every pending change is at forward distance 1..4, at most one per (channel, e), so at most 16. -/
def PendingLaw (s : State) : Prop :=
  s.ctl.station = .run →
    (∀ x ∈ s.out.pending, 1 ≤ forward s.timer.period x.e ∧ forward s.timer.period x.e ≤ 4) ∧
    s.out.pending.Pairwise (fun a b => a.channel ≠ b.channel ∨ a.e ≠ b.e)

/-- R90, R105: attempt counts of 0..15 and a cooldown of 0..8. -/
def AttemptsBounded (s : State) : Prop :=
  (∀ id, (s.line.slots.ctl id).attempts ≤ 15) ∧ s.line.slots.cooldown ≤ Config.cooldownPeriods

/-! ## Channels and keys (R130, R134, R154, R160) -/

/-- R130, R131, R134: targets of 0..A, last-lit of 1..A, UNUSED exactly for units 0, and an UNUSED channel at target 0 and
never owed. -/
def ChannelLaw (s : State) : Prop :=
  ∀ n, (s.chans.get n).target ≤ s.cfg.placeable ∧ 1 ≤ (s.chans.get n).lastLit ∧
    (s.chans.get n).lastLit ≤ s.cfg.placeable ∧ ((s.chans.get n).state = .unused ↔ (s.chans.get n).units = 0) ∧
    ((s.chans.get n).state = .unused → (s.chans.get n).target = 0 ∧ (s.chans.get n).owed = false)

/-- R154: the fault hold flag of a FAULTED channel is set. -/
def FaultHeld (s : State) : Prop := ∀ n, (s.chans.get n).state = .faulted → (s.out.chan.get n).faultHold = true

/-- R151, R153: an UNUSED channel has no Drive Plan placement and no Pending Change Queue entry. -/
def UnusedUndriven (s : State) : Prop :=
  ∀ n, (s.chans.get n).state = .unused →
    (s.out.chan.get n).plan = none ∧ ∀ x ∈ s.out.pending, x.channel ≠ n

/-- R160: the ranges of a key record's working items; R164: a calibration under way; R168: the hold timer. -/
def KeyLaw (k : Key) : Prop :=
  k.baseline ≤ 4095 ∧ k.last ≤ 4095 ∧ k.calCount ≤ 8 ∧ k.calSum ≤ 4095 * k.calCount ∧
  (k.state = .calibrating → k.calCount ≤ 7) ∧ k.touchRun ≤ 3 ∧ k.noTouchRun ≤ 3 ∧ k.overflowRun ≤ 3 ∧
  k.shortRun ≤ 3 ∧ k.tracking ≤ 15 ∧ k.hold ≤ 4096 ∧ (k.held = false → k.hold = 0)

/-- R160: every key record's working items are in range. -/
def KeysInRange (s : State) : Prop := ∀ n, KeyLaw (s.touch.key.get n)

/-! ## What is held from one cold reset to the next (R178) -/

/-- R130: the configuration items of a channel record. -/
def Channel.config (c : Channel) : Nat × Nat × Nat := (c.units, c.cls, c.defaultLevel)

/-- R153, R155: the configuration items of an output. -/
def OutChannel.config (c : OutChannel) : Polarity × DriveType × Bool := (c.polarity, c.drive, c.senseEnable)

/-- R160: the configuration items of a key record. -/
def Key.config (k : Key) : Bool × Nat × BitVec 4 × Nat × Nat := (k.enable, k.bound, k.mask, k.threshold, k.divider)

/-- R178: the two states hold the same configuration. -/
def SameConfiguration (s t : State) : Prop :=
  t.cfg = s.cfg ∧ t.loader.digest = s.loader.digest ∧ t.touch.holdTime = s.touch.holdTime ∧
  t.touch.stepSize = s.touch.stepSize ∧ t.out.configured = s.out.configured ∧
  ∀ n, (t.chans.get n).config = (s.chans.get n).config ∧ (t.out.chan.get n).config = (s.out.chan.get n).config ∧
    (t.touch.key.get n).config = (s.touch.key.get n).config

/-! ## Situations the statements speak of -/

/-- R23 to R25: `c` is the end of the own count, or another station's edge on SLN, and is taken as a period start. -/
def StartsPeriod (c : Instr) (s : State) : Prop :=
  s.ctl.station.timerRuns = true ∧
    ((c = .periodEndOfCount ∧ s.timer.slot = 127) ∨
      (c = .slnFallingEdge ∧ (96 ≤ s.timer.slot ∨ s.timer.started = false)))

/-- R61: the engine may take the head record `r`, with `rest` behind it. -/
def AtHead (s : State) (r : Record) (rest : List Record) : Prop :=
  s.line.inbound = r :: rest ∧ s.line.restartPending = false

/-- R56, R61: the line interface once the head has been removed and `rest` is left. -/
def LineInterface.popped (l : LineInterface) (rest : List Record) : LineInterface :=
  { l with inbound := rest, holdLatch := if rest.length ≤ 4 then false else l.holdLatch }

/-- R95, R96: the slots at the end of an event: a PLACE or an EVICT slot that has no work has attempt count 0 (log entry 26). -/
def State.settled (s : State) (t : TxSlots) : TxSlots :=
  { t with
    place :=
      if s.ctl.station = .run ∧ ∃ n, (s.chans.get n).owed = true then t.place else { t.place with attempts := 0 }
    evict := if s.ctl.station = .run ∧ s.toEvict ≠ [] then t.evict else { t.evict with attempts := 0 } }

/-- R57, R106: the line interface once the restart that waited for the end of the attempt has taken effect. -/
def LineInterface.emptied (l : LineInterface) : LineInterface :=
  { l with
    idle := false, attempt := none, inbound := [], holdLatch := false, restartPending := false
    slots := { TxSlots.empty with joinFoundHolds := some .join } }

/-- R50, R56: what the own signals in the trailer of `m` leave in a line interface: the two counters, and the hold latch, set by a HOLD
for a full queue that no removal has brought to 4 or fewer since (log entry 5). -/
def State.signalled (s : State) (m : Reception) (l : LineInterface) : LineInterface :=
  { l with
    errorsSignalled := if s.signalsError m then satInc s.line.errorsSignalled else s.line.errorsSignalled
    holdsSignalled := if s.signalsHold m then satInc s.line.holdsSignalled else s.line.holdsSignalled
    holdLatch :=
      s.line.holdLatch || (s.signalsHold m && (s.trailerOf m).full && decide (4 < s.line.inbound.length)) }

/-- R128: the node once it has entered HALTED, block by block; HaltedBlocks says the same item by item. -/
def State.haltedBy (s : State) (cause : HaltCause) : State :=
  { s with
    loader := { s.loader with phase := .finished }
    timer := { s.timer with slnPull := false }
    line :=
      { s.line with
        idle := false, heard := false, inbound := [], holdLatch := false, runOwner := none, attempt := none
        restartPending := false, slots := .empty }
    engine :=
      { s.engine with
        replica := .empty, heldCheck := 0, dumpOwed := false, build := none, witnesses := [], mismatches := 0 }
    chans :=
      s.chans.map fun x =>
        if x.state = .unused ∨ x.state = .faulted then { x with owed := false, revised := false }
        else if 0 < x.target then { x with state := .seeking, owed := true, revised := true }
        else { x with state := .dark, owed := false, revised := false }
    out :=
      { s.out with
        pending := [], blank := false, chan := s.out.chan.map fun c => { c with plan := none, lowCount := 0 } }
    ctl := { s.ctl with station := .halted, joinWait := 0, presence := 0, silence := [], haltCause := cause }
    touch := { s.touch with scan := none } }

/-- R31, R53, R55, R58, R59: the line interface after the acceptance of `msg`, the queue and the slots being given. -/
def LineInterface.accepted (l : LineInterface) (msg : Message) (inbound : List Record) (slots : TxSlots) : LineInterface :=
  { l with
    idle := false, attempt := none, inbound := inbound, slots := slots
    lastE := match msg.payload with
      | .found period _ => period
      | .dumpOpen f => f.lastE
      | p => p.e.getD l.lastE
    runOwner :=
      if msg.lock = true then some msg.source else if l.runOwner = some msg.source then none else l.runOwner }

/-- R53, R55: the inbound queue after the acceptance of `msg`, `boundary` being its mark: the record joins it when the filter admits it
and the station has not left its state since the HOLD slot began. -/
def State.queueAfter (s : State) (m : Reception) (msg : Message) (boundary : Bool) : List Record :=
  if s.admits m msg = true ∧ (s.trailerOf m).holdState = s.ctl.station then
    s.line.inbound ++
      [{ source := msg.source, lock := msg.lock, stamp := s.timer.period, boundary := boundary, payload := msg.payload }]
  else s.line.inbound

/-- R58: the silence counters after the acceptance of a message of `source`. -/
def Controller.heardFrom (c : Controller) (source : Nat) : Controller :=
  { c with silence := c.silence.map fun x => if x.station = source then { x with count := 0 } else x }

/-- R51: the node receives `m` to its end, reads it as `msg`, and no trailer slot is pulled by this node or another. -/
def Accepts (s : State) (m : Reception) (msg : Message) : Prop :=
  s.receives m = true ∧ m.toNobody = false ∧ m.message = some msg ∧ s.signalsError m = false ∧ s.signalsHold m = false

/-- R51: an accepted message of another station, none of this node's under way, that does not halt this node. -/
def AcceptsOther (s : State) (m : Reception) (msg : Message) : Prop :=
  Accepts s m msg ∧ s.line.attempt = none ∧ msg.source ≠ s.own ∧ s.mismatched msg = false

/-! ## The form of a message (R42, R47, R184 to R186) -/

/-- R185: one claim, or one placing entry. -/
def PlaceEntry.formOk (p : PlaceEntry) : Bool := p.claimOk

/-- R184, R185: a DUMP-PART that the layout admits. -/
def DumpPart.formOk : DumpPart → Bool
  | .roster es => 1 ≤ es.length && es.length ≤ 8
  | .cursor _ => true
  | .claims st es => 1 ≤ st && st ≤ 30 && 1 ≤ es.length && es.length ≤ 4 && es.all PlaceEntry.formOk

/-- R184 to R186: a payload that the layout of its kind admits. -/
def Payload.formOk : Payload → Bool
  | .join .. => true
  | .found .. => true
  | .dumpOpen _ => true
  | .dumpPart p => p.formOk
  | .evict _ ps => 1 ≤ ps.length && ps.length ≤ 8
  | .place _ es => 1 ≤ es.length && es.length ≤ 4 && es.all PlaceEntry.placeOk
  | .shed .. => true
  | .presence .. => true
  | .level op _ v => levelValueOk op v.toNat
  | .scene _ _ ls => ls.length ≤ 16
  | .sceneMore ls => 1 ≤ ls.length && ls.length ≤ 16
  | .query _ => true
  | .report .node b => b.length == 15
  | .report .channels b => b.length == 16

/-- R47: a message with no form error. -/
def Message.formOk (m : Message) : Bool :=
  1 ≤ m.source && m.source ≤ 30 && m.payload.destOk m.dest && m.payload.formOk

end Sys2Proof.Machine

namespace Sys2Proof

/-- The command of a period start from each source (R23, R24). -/
def StartSource.command : StartSource → Instr
  | .endOfCount => .periodEndOfCount
  | .slnEdge => .slnFallingEdge

end Sys2Proof
end

