-- ==== Sys2Proof/Certificates/Slice0/Obligations.lean ====
section
/-! DEFINITION. The statements for the provers. Where a statement rests on a choice of the model's, its docstring names the log
entry. -/

section

open Sys2Proof Sys2Proof.Machine

/-! ## The step and the reset -/

/-- A step runs the command at the front of the queue on the state with the queue's rest; on an empty queue the block idles
(log entry 13, the model's choice). -/
def Obligations.StepRunsFront : Prop :=
  (∀ (c : Instr) (rest : List Instr) (s : State),
    s.pending = c :: rest → step s = exec c { s with pending := rest }) ∧
  ∀ s : State, s.pending = [] → step s = .next s

/-- What the chapters' reset tables state of the node after a cold reset by power-on, its pins included. -/
def Obligations.ResetValues : Prop :=
  let s := State.reset
  (s.ctl.station = .loading ∧ s.ctl.haltCause = .none ∧ s.ctl.ownIncarnation = 0 ∧ s.ctl.joinWait = 0 ∧
    s.ctl.presence = 0 ∧ s.ctl.silence = [] ∧ s.ctl.rejoins = 0) ∧
  (s.timer.slot = 0 ∧ s.timer.period = 0 ∧ s.timer.adoptionWait = 0 ∧ s.loader.digest = 0) ∧
  (s.line.inbound = [] ∧ s.line.holdLatch = false ∧ s.line.runOwner = none ∧ s.line.lastE = 0 ∧
    s.line.errorsSignalled = 0 ∧ s.line.holdsSignalled = 0 ∧ s.line.abandoned = 0 ∧ s.line.slots = .empty ∧
    s.line.attempt = none) ∧
  (s.engine.replica = .empty ∧ s.engine.heldCheck = 0 ∧ s.engine.dumpOwed = false ∧ s.engine.build = none ∧
    s.engine.witnesses = [] ∧ s.engine.mismatches = 0 ∧ s.engine.rejected = 0) ∧
  (s.out.pending = [] ∧ s.out.blank = false ∧ s.out.late = 0 ∧
    ∀ n, (s.out.chan.get n).plan = none ∧ (s.out.chan.get n).lowCount = 0 ∧ (s.out.chan.get n).faultHold = false) ∧
  (∀ n, (s.chans.get n).owed = false ∧ (s.chans.get n).revised = false) ∧
  (s.touch.scan = none ∧ ∀ n,
    let k := s.touch.key.get n
    (k.state = .unset ∧ k.baseline = 0 ∧ k.last = 0 ∧ k.calCount = 0 ∧ k.calSum = 0 ∧ k.hold = 0 ∧ k.ramp = .up) ∧
      k.touchRun = 0 ∧ k.noTouchRun = 0 ∧ k.tracking = 0 ∧ k.overflowRun = 0 ∧ k.shortRun = 0) ∧
  (s.dlnDriven = false ∧ s.slnPulled = false ∧ s.faultN = false ∧ s.loader.pins = .released ∧
    ∀ n, s.outPin n = .released ∧ ∀ cycles, s.keyPin n cycles = .released)

/-- Every invariant stated below holds at reset. The law of the channels holds there by the model's own values of a channel
record before the image is taken (units 0, UNUSED, last-lit 128, with G 0): log entry 12, an unsafe choice of the model's. -/
def Obligations.InvariantsAtReset : Prop :=
  SlotMapLaw State.reset ∧ EmptyOutsideRun State.reset ∧ MembershipLaw State.reset ∧ RunLaw State.reset ∧
  AttemptLaw State.reset ∧ QueueBounded State.reset ∧
  PendingLaw State.reset ∧ AttemptsBounded State.reset ∧ ChannelLaw State.reset ∧ UnusedUndriven State.reset ∧
  FaultHeld State.reset ∧ KeysInRange State.reset

/-! ## Start-up -/

/-- COLD_RESET by power-on and by RESETN give the reset state, but for the halt cause, which RESETN leaves; a pulse shorter
than 1 µs does so or has no effect. The queue of commands and the model's count of free values stand (log entries 13, 14). -/
def Obligations.ColdResetTakesEffect : Prop :=
  ∀ s : State,
    exec (.coldReset .powerOn) s =
      .next { State.reset with pending := s.pending, freeIndex := s.freeIndex } ∧
    exec (.coldReset .resetn) s =
      .next
        { State.reset with
          pending := s.pending, freeIndex := s.freeIndex
          ctl := { State.reset.ctl with haltCause := s.ctl.haltCause } } ∧
    ∃ t, exec (.coldReset .shortPulse) s = .next t ∧
      (t = { s with freeIndex := s.freeIndex + 1 } ∨
        t =
          { State.reset with
            pending := s.pending, freeIndex := s.freeIndex + 1
            ctl := { State.reset.ctl with haltCause := s.ctl.haltCause } })

/-- CONFIGURATION_LOADER_START: an identity of 1..30 begins the read, which advances the model's count of free values (log entry
34); 0 and 31 halt the station with cause STRAP, the memory pins as they were. -/
def Obligations.StrapsRead : Prop :=
  ∀ (s : State) (straps : BitVec 5), s.ctl.station = .loading → s.loader.phase = .waiting →
    (1 ≤ straps.toNat ∧ straps.toNat ≤ 30 →
      exec (.configurationLoaderStart straps) s =
        .next
          { s with
            freeIndex := s.freeIndex + 1
            loader := { s.loader with strap := straps.toNat, phase := .reading, pins := .transaction } }) ∧
    (straps.toNat = 0 ∨ straps.toNat = 31 →
      ∃ t, exec (.configurationLoaderStart straps) s = .next t ∧ t.ctl.station = .halted ∧ t.ctl.haltCause = .strap ∧
        t.loader.strap = straps.toNat ∧ t.loader.pins = s.loader.pins ∧ t.faultN = true ∧ SameConfiguration s t)

/-- The image is what CMISO read at the rising edges after the 24 of command and address, byte 0 first and each most significant
bit first, 1 where the memory drives nothing (log entry 19, so for lists of any length); it is valid exactly when its signature, its check, every field and the pair of codes
are. CONFIGURATION_READ_COMPLETE with an invalid image: HALTED, no value taken, CSN high, FAULTN asserted. -/
def Obligations.ImageValidity : Prop :=
  (∀ image : List Byte, image.length = 64 →
    let b := fun k => (image.getD k 0).toNat
    (imageValid image = true ↔
      (b 0 = 0x5A ∧ b 1 = 0x4B) ∧
      ((List.range 62).map fun k => (k + 1) * b k).sum % 65536 = b 62 * 256 + b 63 ∧
      (b 2 ≤ 2 ∧ b 3 ≤ 2 ∧ b 4 ≤ 8 ∧ 1 ≤ b 5 * 256 + b 6 ∧ b 5 * 256 + b 6 ≤ 1023 ∧ 16 ≤ b 7) ∧
      (∀ n < 4, b (8 + 4 * n) ≤ 63 ∧ b (9 + 4 * n) ≤ 2 ∧ b (10 + 4 * n) ≤ 128) ∧
      (∀ n < 4, b (24 + 5 * n) ≤ 1 ∧ b (25 + 5 * n) ≤ 30 ∧ b (26 + 5 * n) ≤ 15 ∧ 4 ≤ b (27 + 5 * n) ∧
        b (28 + 5 * n) ≤ 6) ∧
      (4 ≤ b 44 ∧ 1 ≤ b 45 ∧ b 45 ≤ 32) ∧
      (b 2, b 3) ∈ [(0, 2), (1, 1), (1, 2), (2, 0), (2, 1), (2, 2)])) ∧
  (∀ memory : List (Option Bool),
    (readImage memory).length = 64 ∧
    (∀ k < 64,
      let bit := fun i => if memory[24 + 8 * k + i]? = some (some false) then 0 else 1
      ((readImage memory).getD k 0).toNat =
        128 * bit 0 + 64 * bit 1 + 32 * bit 2 + 16 * bit 3 + 8 * bit 4 + 4 * bit 5 + 2 * bit 6 + bit 7) ∧
    ((∀ x ∈ memory, x = none) → imageValid (readImage memory) = false)) ∧
  ∀ (s : State) (memory : List (Option Bool)), s.ctl.station = .loading → s.loader.phase = .reading →
    imageValid (readImage memory) = false →
    ∃ t, exec (.configurationReadComplete memory) s = .next t ∧ t.ctl.station = .halted ∧ t.ctl.haltCause = .config ∧
      SameConfiguration s t ∧ t.loader.pins = .atRest ∧ t.loader.strap = s.loader.strap ∧ t.faultN = true ∧
      t.engine.replica = .empty ∧ t.line.inbound = [] ∧ t.line.slots = .empty ∧ t.timer.slot = s.timer.slot ∧
      t.timer.period = s.timer.period

/-- CONFIGURATION_READ_COMPLETE with a valid image: JOIN-SEND with the timer at slot 0 and period 0, the adoption wait 4P, a
JOIN in its slot, the line parameters and the digest taken, and every channel, output and key record set from its block. -/
def Obligations.ValidImageTaken : Prop :=
  ∀ (s : State) (memory : List (Option Bool)), s.ctl.station = .loading → s.loader.phase = .reading →
    imageValid (readImage memory) = true →
    let b := fun k => ((readImage memory).getD k 255).toNat
    let a := 128 - 2 * b 4
    ∃ t, exec (.configurationReadComplete memory) s = .next t ∧ t.ctl = { s.ctl with station := .joinSend } ∧
      (t.timer.slot = 0 ∧ t.timer.period = 0 ∧ t.timer.slnPull = false ∧ t.timer.adoptionWait = 4 * b 7) ∧
      (t.line.slots = { s.line.slots with joinFoundHolds := some .join } ∧ t.line.idle = false ∧
        t.line.heard = false) ∧
      t.cfg = { rateCode := b 2, slotCode := b 3, guard := b 4, budget := b 5 * 256 + b 6, presence := b 7 } ∧
      t.loader.digest = BitVec.ofNat 16 (b 2 + 2 * b 3 + 3 * b 4 + 4 * b 5 + 5 * b 6 + 6 * b 7) ∧
      (∀ n : Num4,
        let u := b (8 + 4 * n.val)
        let d := min (b (10 + 4 * n.val)) a
        let target := if u = 0 then 0 else d
        t.chans.get n =
          { units := u, cls := b (9 + 4 * n.val), defaultLevel := b (10 + 4 * n.val), target := target
            lastLit := if u = 0 ∨ d = 0 then a else d
            state := if u = 0 then .unused else if 0 < target then .seeking else .dark
            owed := decide (0 < target), revised := decide (0 < target) }) ∧
      (t.out.configured = true ∧ ∀ n : Num4,
        (t.out.chan.get n).polarity = (if b (11 + 4 * n.val) % 2 = 1 then .activeLow else .activeHigh) ∧
        (t.out.chan.get n).drive = (if b (11 + 4 * n.val) / 2 % 2 = 1 then .openDrain else .pushPull) ∧
        (t.out.chan.get n).senseEnable = decide (b (11 + 4 * n.val) / 4 % 2 = 1)) ∧
      (t.touch.holdTime = 4 * b 44 ∧ t.touch.stepSize = b 45 ∧ ∀ n : Num4,
        t.touch.key.get n =
          { Key.untaken with
            enable := decide (b (24 + 5 * n.val) = 1), bound := b (25 + 5 * n.val)
            mask := BitVec.ofNat 4 (b (26 + 5 * n.val)), threshold := b (27 + 5 * n.val)
            divider := b (28 + 5 * n.val)
            state := if b (24 + 5 * n.val) = 1 then .calibrating else .disabled }) ∧
      (t.engine = s.engine ∧ t.pending = s.pending ∧ t.freeIndex = s.freeIndex ∧ t.loader.strap = s.loader.strap ∧
        t.out.pending = s.out.pending ∧ t.line.inbound = s.line.inbound)

/-! ## Slots and periods -/

/-- PERIOD_END_OF_COUNT and SLN_FALLING_EDGE taken as a period start. The timer: slot 0, the next period number, the pull of SLN
at the own end of count alone, the adoption wait. The keys: each hold timer of a PRESSED or HOLDING key rises by 1, with a step at H
and H + 4j below 4096 and a forced release at 4096, the other records standing; the steps go in key order to the own channels, or to
the key's LEVEL slot; a scan round under way goes on, and otherwise one begins at the first key in a measured state. The controller:
join wait, presence countdown, silence counters. The slots: held marks clear, PLACE cooldown one less, a PRESENCE owed when the
countdown reaches 0, a FOUND in place at the expiry of the join wait; all else in them stands. The outputs are left to
OutputAtPeriodStart. -/
def Obligations.PeriodStartTaken : Prop :=
  ∀ (c : Instr) (s : State), StartsPeriod c s →
    let H := s.touch.holdTime
    let pressed := fun x : Key => x.state = .pressed ∨ x.state = .holding
    let measured := fun x : Key => x.state = .calibrating ∨ x.state = .released ∨ x.state = .pressed ∨ x.state = .holding
    let gives := fun x : Key =>
      x.hold + 1 < 4096 ∧
        ((x.state = .pressed ∧ x.hold + 1 = H) ∨
          (x.state = .holding ∧ H < x.hold + 1 ∧ (x.hold + 1 - H) % 4 = 0))
    let step := fun x : Key => if x.ramp = .up then LevelOp.stepUp else LevelOp.stepDown
    let ends := s.ctl.station = .joinWait ∧ s.ctl.joinWait = 1
    let unheld := fun x : SlotCtl => ({ x with held := false } : SlotCtl)
    ∃ t, exec c s = .next t ∧
      t.timer =
        { slot := 0, period := s.timer.period + 1, started := true, slnPull := decide (c = .periodEndOfCount)
          adoptionWait := s.timer.adoptionWait - 1 } ∧
      (t.touch = { s.touch with key := t.touch.key, scan := t.touch.scan } ∧
        (∀ k,
          let x := s.touch.key.get k
          (¬ pressed x → t.touch.key.get k = x) ∧
          (pressed x → 4096 ≤ x.hold + 1 →
            t.touch.key.get k =
              { x with
                state := .calibrating, hold := 0, calCount := 0, calSum := 0, touchRun := 0, noTouchRun := 0
                tracking := 0 }) ∧
          (pressed x → x.hold + 1 < 4096 →
            t.touch.key.get k =
              { x with
                hold := x.hold + 1
                state := if x.state = .pressed ∧ x.hold + 1 = H then .holding else x.state })) ∧
        (∀ k, s.touch.scan = some k → t.touch.scan = some k) ∧
        (s.touch.scan = none →
          (∀ k, t.touch.scan = some k →
            measured (t.touch.key.get k) ∧ ∀ j, j.val < k.val → ¬ measured (t.touch.key.get j)) ∧
          (t.touch.scan = none → ∀ k, ¬ measured (t.touch.key.get k)))) ∧
      t.chans =
        ([0, 1, 2, 3] : List Num4).foldl
          (fun cs k =>
            let x := s.touch.key.get k
            if gives x ∧ x.bound = s.own then operateMask s.cfg.placeable (step x) s.touch.stepSize x.mask cs else cs)
          s.chans ∧
      t.line =
        { s.line with
          attempt := s.line.attempt.map fun a => { a with crossed := true }
          slots :=
            { joinFound := { attempts := if ends then 0 else s.line.slots.joinFound.attempts, held := false }
              joinFoundHolds := if ends then some .found else s.line.slots.joinFoundHolds
              dump := unheld s.line.slots.dump, dumpRun := s.line.slots.dumpRun, evict := unheld s.line.slots.evict
              place := unheld s.line.slots.place, cooldown := s.line.slots.cooldown - 1
              presence := unheld s.line.slots.presence
              presenceWork := s.line.slots.presenceWork || decide (s.ctl.station = .run ∧ s.ctl.presence = 1)
              report := unheld s.line.slots.report, reportHolds := s.line.slots.reportHolds
              reportFollowOn := s.line.slots.reportFollowOn, level := t.line.slots.level } } ∧
      (∀ k,
        let x := s.touch.key.get k
        let l := s.line.slots.level.get k
        let given :=
          if gives x ∧ x.bound ≠ s.own then
            l.give (s.line.busy (.level k)) { op := step x, value := s.touch.stepSize, dest := x.bound, mask := x.mask }
          else l
        t.line.slots.level.get k = { given with ctl := unheld given.ctl }) ∧
      (s.ctl.station = .run →
        t.ctl =
          { s.ctl with
            presence := s.ctl.presence - 1
            silence := s.ctl.silence.map fun x => { x with count := min (x.count + 1) 1020 } }) ∧
      (s.ctl.station = .joinWait →
        t.ctl =
          { s.ctl with
            station := if s.ctl.joinWait = 1 then .foundSend else .joinWait, joinWait := s.ctl.joinWait - 1 }) ∧
      (s.ctl.station ≠ .run → s.ctl.station ≠ .joinWait → t.ctl = s.ctl) ∧
      t.pending = s.pending ∧ t.freeIndex = s.freeIndex ∧ t.loader = s.loader ∧ t.cfg = s.cfg ∧ t.engine = s.engine

/-- SLN_FALLING_EDGE inside the early-edge guard is ignored; SLOT_BOUNDARY advances the slot counter and ends the own pull with
slot 0. The guard measures from any period start of the node's own (log entry 9). -/
def Obligations.EdgesAndSlots : Prop :=
  ∀ s : State, s.ctl.station.timerRuns = true →
    (s.timer.slot < 96 → s.timer.started = true → exec .slnFallingEdge s = .next s) ∧
    (s.timer.slot < 127 →
      exec .slotBoundary s =
        .next { s with timer := { s.timer with slot := s.timer.slot + 1, slnPull := false } })

/-- The output stage at a period start p in RUN: lateness and the blank flag, the Pending Change Queue entries due at p, low
counts, and fault hold flags, judged by the channel states before the key steps of p (log entry 33, the model's choice). Outside RUN nothing in it changes but
the fault hold flags, judged there too (log entry 11). -/
def Obligations.OutputAtPeriodStart : Prop :=
  (∀ (c : Instr) (s : State), StartsPeriod c s → s.ctl.station = .run →
    let p := s.timer.period + 1
    let late := ∃ r ∈ s.line.inbound, ∃ e, r.payload.e = some e ∧ ¬ (1 ≤ forward p e ∧ forward p e ≤ 127)
    ∃ t, exec c s = .next t ∧
      (late → t.out.blank = true ∧ t.out.late = satInc s.out.late) ∧
      (¬ late → t.out.blank = false ∧ t.out.late = s.out.late) ∧
      t.out.pending = s.out.pending.filter (fun x => x.e != p) ∧ t.out.configured = s.out.configured ∧
      (∀ n, (∀ x ∈ s.out.pending, x.e = p → x.channel ≠ n) →
        (t.out.chan.get n).plan = (s.out.chan.get n).plan ∧
        (t.out.chan.get n).lowCount = (s.out.chan.get n).lowCount) ∧
      (∀ x ∈ s.out.pending, x.e = p →
        (∀ y ∈ s.out.pending, y.e = p → y.channel = x.channel → y = x) →
        (t.out.chan.get x.channel).plan = x.placement ∧
        (t.out.chan.get x.channel).lowCount =
          if x.placement = (s.out.chan.get x.channel).plan then (s.out.chan.get x.channel).lowCount else 0) ∧
      ∀ n, (t.out.chan.get n).faultHold =
          (if (s.chans.get n).state = .faulted then (s.out.chan.get n).faultHold else false) ∧
        (t.out.chan.get n).config = (s.out.chan.get n).config) ∧
  ∀ (c : Instr) (s : State), StartsPeriod c s → s.ctl.station ≠ .run →
    ∃ t, exec c s = .next t ∧ t.out = { s.out with chan := t.out.chan } ∧
      ∀ n,
        t.out.chan.get n =
          if (s.chans.get n).state = .faulted then s.out.chan.get n
          else { s.out.chan.get n with faultHold := false }

/-- ADOPTION_WAIT_EXPIRY, JOIN_WAIT_EXPIRY, PRESENCE_COUNTDOWN_EXPIRY, SILENCE_LIMIT and PLACE_COOLDOWN_EXPIRY are the period
start at which the count runs out (log entry 4), and what the count's end brings has come about. -/
def Obligations.ExpiriesAtPeriodStart : Prop :=
  ∀ (s : State) (src : StartSource), s.startArises src = true →
    (s.timer.adoptionWait = 1 →
      ∃ t, exec (.adoptionWaitExpiry src) s = .next t ∧ exec src.command s = .next t ∧ t.timer.adoptionWait = 0) ∧
    (s.ctl.station = .joinWait → s.ctl.joinWait = 1 →
      ∃ t, exec (.joinWaitExpiry src) s = .next t ∧ exec src.command s = .next t ∧
        t.ctl = { s.ctl with station := .foundSend, joinWait := 0 } ∧
        t.line.slots.joinFoundHolds = some .found ∧ (t.line.slots.ctl .joinFound).attempts = 0 ∧
        t.quarterGate = true) ∧
    (s.ctl.station = .run → s.ctl.presence = 1 →
      ∃ t, exec (.presenceCountdownExpiry src) s = .next t ∧ exec src.command s = .next t ∧ t.ctl.presence = 0 ∧
        t.hasWork .presence = true) ∧
    (∀ st, s.ctl.station = .run → s.evictAt ≤ 1020 → isMember s.engine.replica.roster st = true → st ≠ s.own →
      silenceOf s.ctl.silence st + 1 = s.evictAt → (∃ x ∈ s.ctl.silence, x.station = st) →
      ∃ t, exec (.silenceLimit st src) s = .next t ∧ exec src.command s = .next t ∧
        silenceOf t.ctl.silence st = t.evictAt ∧ t.hasWork .evict = true) ∧
    (s.line.slots.cooldown = 1 →
      ∃ t, exec (.placeCooldownExpiry src) s = .next t ∧ exec src.command s = .next t ∧ t.line.slots.cooldown = 0)

/-- HOLD_TIME_REACHED, HOLD_STEP and FORCED_RELEASE are the period start at which the key's hold timer reaches H, H + 4j, and
4096 (log entry 4): the key's record, and its step to the own channels or to its LEVEL slot, as its content or, while the slot's own
attempt is on the line, its follow-on; a forced release gives none. What the other keys do at that period start is
PeriodStartTaken's; where no other is held, the channels and LEVEL slots change by this step alone. -/
def Obligations.HoldEventsAtPeriodStart : Prop :=
  ∀ (s : State) (src : StartSource) (k : Num4), s.startArises src = true →
    let key := s.touch.key.get k
    let step := if key.ramp = .up then LevelOp.stepUp else LevelOp.stepDown
    let alone := ∀ j, j ≠ k → (s.touch.key.get j).state ≠ .pressed ∧ (s.touch.key.get j).state ≠ .holding
    let unheld := fun l : LevelSlot => ({ l with ctl := { l.ctl with held := false } } : LevelSlot)
    let level := s.line.slots.level.map unheld
    let becomes := fun (t : State) (x : Key) =>
      t.touch.key.get k = x ∧ (alone → t.touch.key = s.touch.key.set k x)
    let given := fun t : State =>
      (key.bound = s.own →
        t.line.slots.level.get k = level.get k ∧
        (alone →
          t.chans = operateMask s.cfg.placeable step s.touch.stepSize key.mask s.chans ∧ t.line.slots.level = level)) ∧
      (key.bound ≠ s.own →
        let x :=
          unheld
            ((s.line.slots.level.get k).give (s.line.busy (.level k))
              { op := step, value := s.touch.stepSize, dest := key.bound, mask := key.mask })
        t.line.slots.level.get k = x ∧
        (alone → t.chans = s.chans ∧ t.line.slots.level = level.set k x))
    (key.state = .pressed → key.hold + 1 = s.touch.holdTime → key.hold + 1 < 4096 →
      ∃ t, exec (.holdTimeReached k src) s = .next t ∧ exec src.command s = .next t ∧
        becomes t { key with state := .holding, hold := key.hold + 1 } ∧ given t) ∧
    (∀ j, key.state = .holding → 1 ≤ j → key.hold + 1 = s.touch.holdTime + 4 * j → key.hold + 1 < 4096 →
      ∃ t, exec (.holdStep k src) s = .next t ∧ exec src.command s = .next t ∧
        becomes t { key with hold := key.hold + 1 } ∧ given t) ∧
    (key.state = .pressed ∨ key.state = .holding → key.hold + 1 = 4096 →
      ∃ t, exec (.forcedRelease k src) s = .next t ∧ exec src.command s = .next t ∧
        becomes t
          { key with
            state := .calibrating, hold := 0, calCount := 0, calSum := 0, touchRun := 0, noTouchRun := 0
            tracking := 0 } ∧
        t.line.slots.level.get k = level.get k ∧ (alone → t.chans = s.chans ∧ t.line.slots.level = level))

/-! ## The share line: receiving -/

/-- LINE_IDLE and MESSAGE_CUT_SHORT leave everything but the idle and heard marks (log entry 21 for the marks);
RUN_LOCK_TIMEOUT closes the run, and in DUMP-RECEIVE before the closing part it fails the dump, whoever owned the run (log entry
10); after the closing part it fails nothing; the JOIN/FOUND slot's held mark stands (log entry 25). -/
def Obligations.IdleAndRunTimeout : Prop :=
  ∀ s : State, s.ctl.station.listening = true → s.line.attempt = none →
    exec .lineIdle s = .next { s with line := { s.line with idle := true, heard := true } } ∧
    exec .messageCutShort s = .next { s with line := { s.line with idle := true, heard := true } } ∧
    ∀ o, s.line.runOwner = some o →
      (s.ctl.station ≠ .dumpReceive ∨ (∃ b, s.engine.build = some b ∧ b.closing = true) →
        exec .runLockTimeout s =
          .next { s with line := { s.line with idle := true, heard := true, runOwner := none } }) ∧
      ∀ b, s.ctl.station = .dumpReceive → s.engine.build = some b → b.closing = false →
        exec .runLockTimeout s =
          .next
            { s with
              line :=
                { s.line with
                  idle := true, heard := true, runOwner := none, inbound := [], holdLatch := false
                  slots :=
                    { s.line.slots with
                      joinFound := { s.line.slots.joinFound with attempts := 0 }, joinFoundHolds := some .join } }
              engine := { s.engine with replica := .empty, heldCheck := 0, build := none }
              ctl := { s.ctl with station := .joinSend, joinWait := 0, rejoins := satInc s.ctl.rejoins } }

/-- What this station signals in a trailer: nothing for destination 31; ERROR for a form error, and in RUN at the last stop bit for
every FOUND and for an e before last-e; HOLD, when not ERROR, for a message the filter admits with the queue full or the latch set at
the start of the HOLD slot. The filter judges by kind and by the state then; after the closing part of a dump has been accepted, as in
RUN. Where no event of the node falls within the trailer all of it stands as at its end; otherwise the operand gives it (log entry 5,
the model's choice of form). -/
def Obligations.TrailerSignals : Prop :=
  (∀ (s : State) (m : Reception),
    (m.toNobody = true → s.signalsError m = false ∧ s.signalsHold m = false) ∧
    (m.toNobody = false → m.message = none → s.signalsError m = true ∧ s.signalsHold m = false) ∧
    ∀ msg, m.toNobody = false → m.message = some msg →
      (s.signalsError m = true ↔
        (s.trailerOf m).errorState = .run ∧
          (msg.payload.kind = 2 ∨
            ∃ e, msg.payload.e = some e ∧ 1 ≤ forward e s.line.lastE ∧ forward e s.line.lastE ≤ 127)) ∧
      (s.signalsHold m = true ↔
        s.signalsError m = false ∧ s.admits m msg = true ∧
          ((s.trailerOf m).full = true ∨ (s.trailerOf m).latched = true))) ∧
  (∀ (s : State) (m : Reception) (msg : Message),
    let x := s.trailerOf m
    let p := msg.payload
    let st := if x.holdState = .dumpReceive ∧ x.closing = true then .run else x.holdState
    (s.admits m msg = true ↔
      (p.kind ∈ [1, 5, 6, 7, 8, 10, 11] ∧ st = .run) ∨
      (p.kind = 2 ∧ (st = .joinWait ∨ st = .foundSend)) ∨
      (p.kind = 3 ∧ (st = .joinWait ∨ st = .foundSend ∨ st = .run)) ∨
      (p.kind = 4 ∧ st = .dumpReceive) ∨
      ((p.kind = 9 ∨ p.kind = 12) ∧ (msg.dest = 0 ∨ msg.dest = s.own) ∧ st ≠ .loading ∧ st ≠ .halted))) ∧
  ∀ (s : State) (m : Reception),
    (m.trailer = none →
      s.trailerOf m =
        { errorState := s.ctl.station, holdState := s.ctl.station, closing := s.engine.build.any (·.closing)
          full := decide (8 ≤ s.line.inbound.length), latched := s.line.holdLatch }) ∧
    ∀ x, m.trailer = some x →
      s.trailerOf m =
        { x with full := x.full || decide (8 ≤ s.line.inbound.length), latched := x.latched || s.line.holdLatch }

/-- MESSAGE_ACCEPTED in RUN, another station's message: the record queued when the filter admits it and the station has not left
its state since the HOLD slot began, last-e, the run state and the source's silence counter; every other block stands. A message to
destination 31 does nothing but end the idle mark, which every message ends (log entry 21); a PLACE or EVICT slot whose work has
ended returns to count 0 (log entry 26). -/
def Obligations.AcceptedInRun : Prop :=
  (∀ (s : State) (m : Reception) (msg : Message), AcceptsOther s m msg → s.ctl.station = .run →
    ∃ t, exec (.messageAccepted m) s = .next t ∧
      t.line =
        { s.line with
          idle := false
          inbound :=
            if s.admits m msg = true ∧ (s.trailerOf m).holdState = .run then
              s.line.inbound ++
                [{ source := msg.source, lock := msg.lock, stamp := s.timer.period, boundary := m.boundary,
                   payload := msg.payload }]
            else s.line.inbound
          lastE := t.line.lastE
          runOwner :=
            if msg.lock then some msg.source
            else if s.line.runOwner = some msg.source then none else s.line.runOwner
          slots := t.settled s.line.slots } ∧
      (∀ e, msg.payload.e = some e → t.line.lastE = e) ∧
      (∀ f, msg.payload = .dumpOpen f → t.line.lastE = f.lastE) ∧
      (∀ p d, msg.payload = .found p d → t.line.lastE = p) ∧
      (msg.payload.e = none → msg.payload.kind ≠ 2 → msg.payload.kind ≠ 3 → t.line.lastE = s.line.lastE) ∧
      t.ctl =
        { s.ctl with
          silence := s.ctl.silence.map fun x => if x.station = msg.source then { x with count := 0 } else x } ∧
      t.pending = s.pending ∧ t.freeIndex = s.freeIndex ∧ t.loader = s.loader ∧ t.cfg = s.cfg ∧ t.timer = s.timer ∧
      t.engine = s.engine ∧ t.chans = s.chans ∧ t.out = s.out ∧ t.touch = s.touch) ∧
  ∀ (s : State) (m : Reception), s.receives m = true → m.toNobody = true →
    exec (.messageAccepted m) s = .next { s with line := { s.line with idle := false } }

/-- MESSAGE_ACCEPTED in JOIN-SEND, JOIN-WAIT and FOUND-SEND: the period number adopted from another station's PRESENCE, FOUND
or DUMP-OPEN when no period start fell across it, which ends the adoption wait. -/
def Obligations.PeriodAdopted : Prop :=
  ∀ (s : State) (m : Reception) (msg : Message), AcceptsOther s m msg →
    s.ctl.station = .joinSend ∨ s.ctl.station = .joinWait ∨ s.ctl.station = .foundSend →
    ∃ t, exec (.messageAccepted m) s = .next t ∧
      (∀ p, ((∃ n c i, msg.payload = .presence p n c i) ∨ (∃ d, msg.payload = .found p d) ∨
          (∃ f, msg.payload = .dumpOpen f ∧ f.period = p)) →
        m.boundary = false → t.timer = { s.timer with period := p, adoptionWait := 0 }) ∧
      (m.boundary = true → t.timer = s.timer) ∧
      (msg.payload.kind ≠ 8 → msg.payload.kind ≠ 2 → msg.payload.kind ≠ 3 → t.timer = s.timer)

/-- MESSAGE_ACCEPTED that halts: an own-source message this node did not send, DUPLICATE; in JOIN-WAIT and FOUND-SEND another
station's FOUND or DUMP-OPEN of a different line digest, MISMATCH. The next state is the node halted, every block as HaltedBlocks says;
nothing else of the acceptance is taken: last-e, period number and adoption wait stand (for MISMATCH: log entry 29). -/
def Obligations.AcceptanceHalts : Prop :=
  ∀ (s : State) (m : Reception) (msg : Message), Accepts s m msg →
    (msg.source = s.own → s.line.attempt = none → exec (.messageAccepted m) s = .next (s.haltedBy .duplicate)) ∧
    (msg.source ≠ s.own → s.ctl.station = .joinWait ∨ s.ctl.station = .foundSend →
      (∃ p d, msg.payload = .found p d ∧ d ≠ s.loader.digest) ∨
        (∃ f, msg.payload = .dumpOpen f ∧ f.digest ≠ s.loader.digest) →
      exec (.messageAccepted m) s = .next (s.haltedBy .mismatch)) ∧
    ∀ cause,
      let t := s.haltedBy cause
      t.ctl.station = .halted ∧ t.ctl.haltCause = cause ∧ t.line.inbound = [] ∧ t.line.lastE = s.line.lastE ∧
        t.timer = { s.timer with slnPull := false } ∧ t.engine.replica = .empty ∧ t.faultN = true

/-- Entry to HALTED, here by an arbitration loss after the source field: every block takes its halted state. Each channel takes its
restart value, target and last-lit kept; strap identity, line digest and memory pins are kept. -/
def Obligations.HaltedBlocks : Prop :=
  ∀ (s : State) (a : Attempt) (char bit : Nat), s.line.attempt = some a → 3 ≤ char →
    sendsRecessive a.message.chars char bit = true →
    ∃ t, exec (.arbitrationLoss char bit) s = .next t ∧ t.faultN = true ∧ t.slnPulled = false ∧ t.dlnDriven = false ∧
      t.timer = { s.timer with slnPull := false } ∧
      t.line =
        { s.line with
          idle := false, heard := false, inbound := [], holdLatch := false, runOwner := none, attempt := none
          restartPending := false, slots := .empty } ∧
      t.engine =
        { s.engine with
          replica := .empty, heldCheck := 0, dumpOwed := false, build := none, witnesses := [], mismatches := 0 } ∧
      t.out =
        { s.out with
          pending := [], blank := false, chan := s.out.chan.map fun c => { c with plan := none, lowCount := 0 } } ∧
      (∀ n, t.outActive n = false) ∧
      (∀ n,
        let x := s.chans.get n
        t.chans.get n =
          if x.state = .unused ∨ x.state = .faulted then { x with owed := false, revised := false }
          else if 0 < x.target then { x with state := .seeking, owed := true, revised := true }
          else { x with state := .dark, owed := false, revised := false }) ∧
      t.loader = { s.loader with phase := .finished } ∧ t.cfg = s.cfg ∧ t.pending = s.pending ∧
      t.freeIndex = s.freeIndex ∧
      t.ctl =
        { s.ctl with
          station := .halted, joinWait := 0, presence := 0, silence := [], haltCause := .duplicate } ∧
      t.touch = { s.touch with scan := none } ∧ SameConfiguration s t ∧ t = s.haltedBy .duplicate

/-- MESSAGE_ACCEPTED of another station's message outside RUN, the whole next state: last-e, the run state, the source's silence
counter and the inbound queue as in RUN, the period number as PeriodAdopted says (in DUMP-RECEIVE the timer stands: log entry 29), and
the decision of the station controller. JOIN-SEND takes none, nor does JOIN-WAIT or FOUND-SEND on another kind than FOUND and DUMP-OPEN.
A DUMP-OPEN opens a build, unless a period start fell across it: JOIN-WAIT then waits on, FOUND-SEND returns to JOIN-SEND, as both do
on a FOUND. In DUMP-RECEIVE before the closing part any message but a DUMP-PART fails the dump, and the queue is empty, the record of
that very message included (log entry 8); the JOIN/FOUND slot's held mark stands (log entry 25). After the closing part nothing fails
it. A PLACE or EVICT slot, without work outside RUN, has count 0 (log entry 26); the idle mark: log entry 21. -/
def Obligations.JoinerDecisions : Prop :=
  ∀ (s : State) (m : Reception) (msg : Message), AcceptsOther s m msg → s.ctl.station ≠ .run →
    let st := s.ctl.station
    let joins := st = .joinSend ∨ st = .joinWait ∨ st = .foundSend
    let waits := st = .joinWait ∨ st = .foundSend
    let next := fun t : State => exec (.messageAccepted m) s = .next t
    let queue := s.queueAfter m msg m.boundary
    let line := fun (inbound : List Record) (slots : TxSlots) =>
      s.line.accepted msg inbound
        { slots with place := { slots.place with attempts := 0 }, evict := { slots.evict with attempts := 0 } }
    let ctl := s.ctl.heardFrom msg.source
    let period := match msg.payload with
      | .presence p _ _ _ => some p
      | .found p _ => some p
      | .dumpOpen f => some f.period
      | _ => none
    let timer := match period with
      | some p => if joins ∧ m.boundary = false then { s.timer with period := p, adoptionWait := 0 } else s.timer
      | none => s.timer
    let stays := { s with line := line queue s.line.slots, ctl := ctl, timer := timer }
    let returns :=
      { s with
        line :=
          line queue
            { s.line.slots with
              joinFound := { s.line.slots.joinFound with attempts := 0 }, joinFoundHolds := some .join }
        ctl := { ctl with station := .joinSend, joinWait := 0, rejoins := satInc s.ctl.rejoins }
        engine := { s.engine with replica := .empty, heldCheck := 0, build := none }
        timer := timer }
    (st = .joinSend → next stays) ∧
    (waits → msg.payload.kind ≠ 2 → msg.payload.kind ≠ 3 → next stays) ∧
    (∀ f, msg.payload = .dumpOpen f → waits → m.boundary = false →
      next
        { s with
          line := line queue { s.line.slots with joinFoundHolds := none }
          ctl := { ctl with station := .dumpReceive, joinWait := 0 }
          engine :=
            { s.engine with
              build :=
                some
                  { source := msg.source, rosterCount := f.rosterCount.toNat, claimCount := f.claimCount.toNat
                    shed := f.shed, stateCount := f.stateCount, phase := .roster, roster := [], cursor := none
                    claims := [], occupancy := List.replicate 128 0, received := 0, spoiled := false
                    closing := false } }
          timer := timer }) ∧
    (∀ f, msg.payload = .dumpOpen f → st = .joinWait → m.boundary = true → next stays) ∧
    (∀ f, msg.payload = .dumpOpen f → st = .foundSend → m.boundary = true → next returns) ∧
    (∀ p d, msg.payload = .found p d → waits → next returns) ∧
    ∀ b, st = .dumpReceive → s.engine.build = some b →
      timer = s.timer ∧
      (b.closing = true → next stays) ∧
      (b.closing = false → msg.payload.kind ≠ 4 →
        next { returns with line := { returns.line with inbound := [], holdLatch := false } }) ∧
      (b.closing = false → msg.payload.kind = 4 →
        next
          { stays with
            engine :=
              { s.engine with
                build := some { b with closing := decide (msg.source = b.source ∧ msg.lock = false) } } })

/-! ## The share line: sending -/

/-- ATTEMPT_START with a ready JOIN, with a ready FOUND, with a ready PRESENCE and no slot of a lower value at work, and in every
listening state with the REPORT slot selected: the message built, its stamp and fields read from the node, either report laid out
byte by byte. Nothing changes but the attempt, the idle mark and, where their work has ended, the attempt counts of PLACE and EVICT
(log entry 26). -/
def Obligations.AttemptStartFields : Prop :=
  ∀ s : State, s.opportunity = true →
    let starts := fun (id : SlotId) (priority : Fin 4) (dest : Nat) (p : Payload) =>
      exec .attemptStart s =
        .next
          { s with
            line :=
              { s.line with
                idle := false, slots := s.settled s.line.slots
                attempt :=
                  some
                    { slot := id
                      message := { priority := priority, lock := false, source := s.own, dest := dest, payload := p }
                      snapshot := none, crossed := false } } }
    let flags := fun f : Num4 → Bool =>
      (if f 0 = true then 1 else 0) + (if f 1 = true then 2 else 0) + (if f 2 = true then 4 else 0) +
        (if f 3 = true then 8 else 0)
    let stateByte : Byte := match s.ctl.station with
      | .joinSend => 1
      | .joinWait => 2
      | .foundSend => 3
      | .dumpReceive => 4
      | .run => 5
      | _ => 0
    let causeByte : Byte := match s.ctl.haltCause with
      | .none => 0
      | .config => 1
      | .strap => 2
      | .mismatch => 3
      | .duplicate => 4
    let channelBytes := fun n : Num4 =>
      let code : Byte := match (s.chans.get n).state with
        | .unused => 0
        | .dark => 1
        | .seeking => 2
        | .lit => 3
        | .dimmed => 4
        | .waiting => 5
        | .faulted => 6
      if (s.chans.get n).state = .unused then [code, 0, 255, 255]
      else
        [code, BitVec.ofNat 8 (s.chans.get n).target] ++
          match claimOf s.engine.replica.claims s.own n with
          | some c => [BitVec.ofNat 8 c.start, BitVec.ofNat 8 c.len]
          | none => [255, 255]
    (s.ownRun = false → s.ctl.station = .joinSend → s.line.slots.joinFoundHolds = some .join →
      s.timer.adoptionWait = 0 → s.line.slots.joinFound.held = false →
      starts .joinFound 0 0 (.join (s.timer.period + 3) s.loader.digest)) ∧
    (s.ownRun = false → s.ctl.station = .foundSend → s.line.slots.joinFoundHolds = some .found → s.timer.slot ≤ 31 →
      s.line.slots.joinFound.held = false → starts .joinFound 0 0 (.found s.timer.period s.loader.digest)) ∧
    (s.ownRun = false → s.ctl.station = .run → s.line.inbound = [] → s.timer.slot ≤ 63 →
      s.line.slots.presenceWork = true → s.line.slots.presence.held = false → s.engine.dumpOwed = false →
      s.line.slots.dumpRun = none → s.toEvict = [] → (∀ n, (s.chans.get n).owed = false) →
      starts .presence 1 0
        (.presence s.timer.period s.engine.replica.stateCount s.engine.heldCheck s.ctl.ownIncarnation)) ∧
    ∀ q, s.select (allSlots.filter s.ready) = some .report → s.line.slots.reportHolds = some q →
      (q.what = .channels →
        starts .report 3 q.querier
          (.report .channels (channelBytes 0 ++ channelBytes 1 ++ channelBytes 2 ++ channelBytes 3))) ∧
      (q.what = .node →
        starts .report 3 q.querier
          (.report .node
            [ stateByte, causeByte, s.ctl.ownIncarnation
            , BitVec.ofNat 8
                (16 * flags (fun k => (s.touch.key.get k).state == .faultLow) +
                  flags (fun k => (s.touch.key.get k).state == .faultOverflow))
            , BitVec.ofNat 8 (flags fun n => (s.chans.get n).state == .faulted)
            , s.line.abandoned, hiByte s.out.late, loByte s.out.late
            , hiByte s.line.holdsSignalled, loByte s.line.holdsSignalled
            , hiByte s.line.errorsSignalled, loByte s.line.errorsSignalled
            , s.ctl.rejoins, s.engine.rejected, s.timer.period ]))

/-- R91, R92: when there is an opportunity, which slots are ready, the value of each, and the choice among them; the message of the
slot chosen goes on the line, a slot whose build gives none is passed over, and with no ready slot nothing starts. What the DUMP,
EVICT and LEVEL slots build: the DUMP-OPEN with the snapshot's fields and lock 1, the part at the run's position with lock 0 on the
last alone, an EVICT of the first eight stations owed one, the LEVEL held. R99: the parts of a snapshot. That a DUMP slot is within
its own run while it has a run position, and not while the run of an abandoned dump is still open, is the model's choice (log entry
37); attempt counts of a PLACE or EVICT slot without work: log entry 26. -/
def Obligations.AttemptStartSelects : Prop :=
  (∀ (s : State) (id : SlotId) (s' : State) (m : Message) (sn : Option Snapshot), s.opportunity = true →
    s.select (allSlots.filter s.ready) = some id → s.buildFor id = (s', some (m, sn)) →
    exec .attemptStart s =
      .next
        { s' with
          line :=
            { s'.line with
              idle := false, slots := s'.settled s'.line.slots
              attempt := some { slot := id, message := m, snapshot := sn, crossed := false } } }) ∧
  (∀ s : State, s.opportunity = true → allSlots.filter s.ready = [] →
    exec .attemptStart s = .next { s with line := { s.line with slots := s.settled s.line.slots } }) ∧
  (∀ s : State, s.opportunity = true →
    exec .attemptStart s = .next (State.tryBuilds 10 (allSlots.filter s.ready) s).settleSlots) ∧
  (∀ (n : Nat) (ids : List SlotId) (id : SlotId) (s s' : State), s.select ids = some id →
    s.buildFor id = (s', none) → State.tryBuilds (n + 1) ids s = State.tryBuilds n (ids.erase id) s') ∧
  (∀ (s : State) (ids : List SlotId) (id : SlotId), s.select ids = some id →
    id ∈ ids ∧ ∀ j ∈ ids, s.arbitrationValue id ≤ s.arbitrationValue j) ∧
  (∀ (s : State) (k j : Num4), s.select (allSlots.filter s.ready) = some (.level k) → s.ready (.level j) = true →
    k.val ≤ j.val) ∧
  (∀ s : State,
    let listens := s.ctl.station.listening = true
    let runs := s.ctl.station = .run
    let t := s.line.slots
    let free := fun id => (t.ctl id).held = false ∧ s.line.runOwner ≠ some s.own
    (s.opportunity = true ↔
      listens ∧ s.line.idle = true ∧ (s.line.runOwner = none ∨ s.line.runOwner = some s.own) ∧
        s.line.attempt = none) ∧
    (s.ready .joinFound = true ↔
      free .joinFound ∧
        ((s.ctl.station = .joinSend ∧ t.joinFoundHolds = some .join ∧ s.timer.adoptionWait = 0) ∨
          (s.ctl.station = .foundSend ∧ t.joinFoundHolds = some .found ∧ s.timer.slot ≤ 31))) ∧
    (s.ready .dump = true ↔
      runs ∧ (t.dumpRun ≠ none ∨
        (s.engine.dumpOwed = true ∧ s.line.inbound = [] ∧ s.timer.slot ≤ 31 ∧ t.dump.held = false))) ∧
    (s.ready .evict = true ↔ runs ∧ s.toEvict ≠ [] ∧ s.line.inbound = [] ∧ free .evict) ∧
    (s.ready .place = true ↔
      runs ∧ (∃ n, (s.chans.get n).owed = true) ∧ s.line.inbound = [] ∧ t.cooldown = 0 ∧ free .place) ∧
    (s.ready .presence = true ↔
      runs ∧ t.presenceWork = true ∧ s.line.inbound = [] ∧ s.timer.slot ≤ 63 ∧ free .presence) ∧
    (s.ready .report = true ↔ listens ∧ t.reportHolds ≠ none ∧ free .report) ∧
    (∀ k, s.ready (.level k) = true ↔ listens ∧ (t.level.get k).content ≠ none ∧ free (.level k)) ∧
    (s.toEvict.Sublist s.engine.replica.roster ∧
      ∀ m, m ∈ s.toEvict ↔
        m ∈ s.engine.replica.roster ∧ m.station ≠ s.own ∧
          4 * s.cfg.presence ≤ silenceOf s.ctl.silence m.station)) ∧
  (∀ s : State,
    let value := fun priority kind : Nat => priority * 32 + kind
    (s.line.slots.joinFoundHolds = some .join → s.arbitrationValue .joinFound = value 0 1) ∧
    (s.line.slots.joinFoundHolds = some .found → s.arbitrationValue .joinFound = value 0 2) ∧
    (s.line.slots.dumpRun = none → s.arbitrationValue .dump = value 0 3) ∧
    (s.line.slots.dumpRun ≠ none → s.arbitrationValue .dump = value 0 4) ∧
    s.arbitrationValue .evict = value 0 5 ∧
    (∀ c ≤ 3, (∃ n, (s.chans.get n).owed = true ∧ (s.chans.get n).cls = c) →
      (∀ n, (s.chans.get n).owed = true → c ≤ (s.chans.get n).cls) →
      s.arbitrationValue .place = value (1 + c) 6) ∧
    s.arbitrationValue .presence = value 1 8 ∧ (∀ k, s.arbitrationValue (.level k) = value 2 9) ∧
    s.arbitrationValue .report = value 3 13) ∧
  (∀ s : State,
    (s.line.slots.dumpRun = none →
      s.buildFor .dump =
        (s, some
          ({ priority := 0, lock := true, source := s.own, dest := 0
             payload :=
               .dumpOpen
                 { period := s.timer.period, lastE := s.line.lastE, shed := s.engine.replica.shed
                   stateCount := s.engine.replica.stateCount, digest := s.loader.digest
                   rosterCount := BitVec.ofNat 8 s.engine.replica.roster.length
                   claimCount := BitVec.ofNat 8 s.engine.replica.claims.length } },
            some
              { roster := s.engine.replica.roster, cursor := s.engine.replica.cursor
                claims := s.engine.replica.claims, shed := s.engine.replica.shed
                stateCount := s.engine.replica.stateCount, lastE := s.line.lastE, period := s.timer.period }))) ∧
    (∀ run p, s.line.slots.dumpRun = some run → run.snapshot.parts[run.position]? = some p →
      s.buildFor .dump =
        (s, some
          ({ priority := 0, lock := decide (run.position + 1 < run.snapshot.parts.length), source := s.own, dest := 0
             payload := .dumpPart p },
            none))) ∧
    (s.toEvict ≠ [] →
      s.buildFor .evict =
        (s, some
          ({ priority := 0, lock := false, source := s.own, dest := 0
             payload :=
               .evict (s.timer.period + 3)
                 ((s.toEvict.take 8).map fun m =>
                   { station := BitVec.ofNat 8 m.station, incarnation := m.incarnation }) },
            none))) ∧
    ∀ k l, (s.line.slots.level.get k).content = some l →
      s.buildFor (.level k) =
        (s, some
          ({ priority := 2, lock := false, source := s.own, dest := l.dest
             payload := .level l.op l.mask (BitVec.ofNat 8 l.value) },
            none))) ∧
  ∀ sn : Snapshot, ∃ (rs : List (List Member)) (cs : List (Nat × List Claim)),
    sn.parts =
      rs.map (fun ms =>
          .roster (ms.map fun m => { station := BitVec.ofNat 8 m.station, incarnation := m.incarnation })) ++
        [.cursor
          (if sn.cursor.valid = true then sn.cursor
            else { source := 0, first := 0, last := 0, next := 0, valid := false, complete := false })] ++
        cs.map (fun p =>
          .claims p.1
            (p.2.map fun c =>
              { channel := c.channel, cls := Fin.ofNat 4 c.cls, units := BitVec.ofNat 8 c.units
                start := BitVec.ofNat 8 c.start, len := BitVec.ofNat 8 c.len })) ∧
    rs.flatten = sn.roster ∧ (∀ ms ∈ rs, 1 ≤ ms.length ∧ ms.length ≤ 8) ∧ (∀ ms ∈ rs.dropLast, ms.length = 8) ∧
    cs.flatMap (·.2) = sn.claims ∧
    (∀ p ∈ cs, 1 ≤ p.2.length ∧ p.2.length ≤ 4 ∧ ∀ c ∈ p.2, c.station = p.1) ∧
    ∀ (i : Nat) (p q : Nat × List Claim), cs[i]? = some p → cs[i + 1]? = some q → p.1 = q.1 → p.2.length = 4

/-- ATTEMPT_START with a ready PLACE and no other slot at work: the PLACE carries the entries of the build, stamped with the
current period + 3, at priority 1 plus their lowest class; a build with no entry sends nothing. In both cases the channels are
as the build leaves them. The build takes the channels in order, 0 to 3, from the Slot Map as its map, with no entry yet, against the
effective budget and the Claim List as it stands; PlaceContribution says what each channel does in it. A slot whose work the build has
ended has count 0 (R95). -/
def Obligations.AttemptStartPlace : Prop :=
  (∀ s : State,
    let budget := match s.engine.replica.shed with
      | 0 => s.cfg.budget
      | 1 => 3 * s.cfg.budget / 4
      | 2 => s.cfg.budget / 2
      | 3 => s.cfg.budget / 4
    s.placeBuild =
      ([0, 1, 2, 3] : List Num4).foldl (PlaceBuild.channel budget s.cfg.guard s.own s.engine.replica.claims)
        { map := s.engine.replica.slotMap, entries := [], chans := s.chans, freeIndex := s.freeIndex }) ∧
  ∀ s : State, s.opportunity = true → s.ownRun = false → s.ctl.station = .run → s.line.inbound = [] →
    s.line.slots.cooldown = 0 → s.line.slots.place.held = false → s.anyOwed = true → s.engine.dumpOwed = false →
    s.line.slots.dumpRun = none → s.toEvict = [] → s.line.slots.presenceWork = false →
    s.line.slots.reportHolds = none → (∀ k, (s.line.slots.level.get k).content = none) →
    let built := { s with chans := s.placeBuild.chans, freeIndex := s.placeBuild.freeIndex }
    (s.placeBuild.entries ≠ [] →
      exec .attemptStart s =
        .next
          { built with
            line :=
              { s.line with
                idle := false, slots := built.settled s.line.slots
                attempt :=
                  some
                    { slot := .place
                      message :=
                        { priority := Fin.ofNat 4 (1 + lowestClass (s.placeBuild.entries.map fun p => p.cls.val))
                          lock := false, source := s.own, dest := 0
                          payload := .place (s.timer.period + 3) s.placeBuild.entries }
                      snapshot := none, crossed := false } } }) ∧
    (s.placeBuild.entries = [] →
      exec .attemptStart s = .next { built with line := { s.line with slots := built.settled s.line.slots } })

/-- One channel's share of a PLACE build: an entry, a release or nothing by its wanted length, its entry and the search's
result; the build map follows each entry; a channel that contributes nothing is handed back with its reason. That a channel which
contributes an entry or a release keeps its state, so that an owed WAITING channel stays WAITING, is the model's choice (log entry 30,
unsafe), and so is that taking its units out of an entry that holds fewer stops at 0 (log entry 35, unsafe); the start byte of a
release is a free value (log entry 3). -/
def Obligations.PlaceContribution : Prop :=
  ∀ (budget guard own : Nat) (claims : List Claim) (b : PlaceBuild) (n : Num4),
    let c := b.chans.get n
    let current := (claimOf claims own n).map Claim.placement
    let wanted := if c.state = .faulted then 0 else c.target
    let found := placementSearch b.map budget guard c.units wanted current
    let b' := PlaceBuild.channel budget guard own claims b n
    let entry := fun (start len : Byte) =>
      ({ channel := n, cls := Fin.ofNat 4 c.cls, units := BitVec.ofNat 8 c.units, start := start, len := len } : PlaceEntry)
    (c.owed = false → b' = b) ∧
    (c.owed = true → (wanted = 0 ∨ found = none) → current ≠ none →
      (∃ start, b'.entries = b.entries ++ [entry start 0]) ∧ b'.map = searchMap b.map c.units current ∧
      b'.chans = b.chans.set n { c with revised := false }) ∧
    (c.owed = true → wanted = 0 → current = none →
      b'.entries = b.entries ∧ b'.map = b.map ∧
      b'.chans =
        b.chans.set n
          { c with owed := false, revised := false, state := if c.state = .faulted then .faulted else .dark }) ∧
    (c.owed = true → wanted ≠ 0 → found = none → current = none →
      b'.entries = b.entries ∧ b'.map = b.map ∧
      b'.chans = b.chans.set n { c with owed := false, revised := false, state := .waiting }) ∧
    ∀ p, c.owed = true → wanted ≠ 0 → found = some p →
      (current = some p →
        b'.entries = b.entries ∧ b'.map = b.map ∧
        b'.chans =
          b.chans.set n
            { c with owed := false, revised := false, state := if p.len = c.target then .lit else .dimmed }) ∧
      (current ≠ some p →
        b'.entries = b.entries ++ [entry (BitVec.ofNat 8 p.start) (BitVec.ofNat 8 p.len)] ∧
        b'.map = addOver (searchMap b.map c.units current) p.start p.len c.units ∧
        b'.chans = b.chans.set n { c with revised := false })

/-- The placement search. With Fit judged on the counts less the channel's own draw over its current entry, the result has the
greatest length at which anything fits, keeps the current start when that fits, and otherwise has the lowest start that fits; there
is no result when no length fits. The build map loses that draw, and gains the units of what is placed. That a count less the draw
stops at 0 where the entry holds fewer units than the channel is the model's choice (log entry 35, unsafe). -/
def Obligations.PlacementSearch : Prop :=
  ∀ (m : List Nat) (budget guard units wanted : Nat) (current : Option Placement),
    let own := fun k => match current with
      | some p => if p.start ≤ k ∧ k < p.start + p.len then units else 0
      | none => 0
    let fit := fun s l => guard ≤ s ∧ s + l ≤ 128 - guard ∧ ∀ k, s ≤ k → k < s + l → occupancy m k - own k + units ≤ budget
    (∀ k, occupancy (searchMap m units current) k = occupancy m k - own k) ∧
    (∀ s l k, k < m.length →
      occupancy (addOver m s l units) k = occupancy m k + if s ≤ k ∧ k < s + l then units else 0) ∧
    (placementSearch m budget guard units wanted current = none ↔ ∀ l, 1 ≤ l → l ≤ wanted → ∀ s, ¬ fit s l) ∧
    ∀ s l, placementSearch m budget guard units wanted current = some { start := s, len := l } →
      1 ≤ l ∧ l ≤ wanted ∧ fit s l ∧ (∀ l', l < l' → l' ≤ wanted → ∀ s', ¬ fit s' l') ∧
      (∀ p, current = some p → fit p.start l → s = p.start) ∧
      ((∀ p, current = some p → ¬ fit p.start l) → ∀ s', s' < s → ¬ fit s' l)

/-- ARBITRATION_LOSS in the priority, kind, lock or source fields, SENDER_BREAK_OFF and MESSAGE_FAILED, each with the whole next
state. At the sender, below the sixteenth failure of a slot with no follow-on waiting: the attempt ends; the loss leaves count and held
mark, a failure adds one to the count, and one in the HOLD slot alone sets the held mark outside the own dump run, which a DUMP slot
has while it has a run position (log entry 37). With a follow-on waiting in the REPORT or LEVEL slot, it is merged into the content
after that (the order is log entry 28; the attempt counts of PLACE and EVICT slots without work, log entry 26). While a restart waits,
every end of the attempt empties slots and queue and touches no slot's count and no abandoned counter; this station's trailer counters
count (log entry 15). At any other station nothing changes but the trailer counters of what it signalled, the hold latch when it held
for a full queue that no removal has brought to 4 or fewer since, and the idle mark. -/
def Obligations.LossAndFailure : Prop :=
  (∀ (s : State) (a : Attempt), s.line.attempt = some a → s.line.restartPending = false →
    let c := s.line.slots.ctl a.slot
    let ended := fun (l : LineInterface) (slots : TxSlots) =>
      { s with line := { l with attempt := none, idle := false, slots := slots } }
    let ends := fun merged : SlotCtl → TxSlots =>
      (∀ char bit, char ≤ 2 → sendsRecessive a.message.chars char bit = true →
        exec (.arbitrationLoss char bit) s = .next (ended s.line (merged c))) ∧
      (c.attempts < 15 →
        exec .senderBreakOff s = .next (ended s.line (s.settled (merged { c with attempts := c.attempts + 1 })))) ∧
      ∀ (m : Reception) (othersError othersHold : Bool), c.attempts < 15 → s.receives m = true →
        (othersError || s.signalsError m || (othersHold || s.signalsHold m)) = true →
        let inRun := a.slot = .dump ∧ s.line.slots.dumpRun ≠ none
        exec (.messageFailed m othersError othersHold) s =
          .next
            (ended (s.signalled m s.line)
              (s.settled
                (merged
                  { attempts := c.attempts + 1
                    held := c.held || (!(othersError || s.signalsError m) && !decide inRun) })))
    ((a.slot = .report → s.line.slots.reportFollowOn = none) →
      (∀ k, a.slot = .level k → (s.line.slots.level.get k).followOn = none) →
      ends fun kept => s.line.slots.setCtl a.slot kept) ∧
    (∀ q, a.slot = .report → s.line.slots.reportFollowOn = some q →
      ends fun _ =>
        { s.line.slots with
          reportHolds := some q, reportFollowOn := none, report := { attempts := 0, held := false } }) ∧
    ∀ k f, a.slot = .level k → (s.line.slots.level.get k).followOn = some f →
      let l := s.line.slots.level.get k
      let content := mergeLevel l.content f
      ends fun kept =>
        { s.line.slots with
          level :=
            s.line.slots.level.set k
              { ctl := if content = l.content then kept else { attempts := 0, held := false }
                content := content, followOn := none } }) ∧
  (∀ (t : TxSlots) (id : SlotId) (c : SlotCtl),
    let t' := t.setCtl id c
    (∀ j, t'.ctl j = if j = id then c else t.ctl j) ∧
      (t'.joinFoundHolds = t.joinFoundHolds ∧ t'.dumpRun = t.dumpRun ∧ t'.cooldown = t.cooldown ∧
        t'.presenceWork = t.presenceWork ∧ t'.reportHolds = t.reportHolds ∧ t'.reportFollowOn = t.reportFollowOn) ∧
      ∀ k, (t'.level.get k).content = (t.level.get k).content ∧ (t'.level.get k).followOn = (t.level.get k).followOn) ∧
  (∀ (s : State) (a : Attempt), s.line.attempt = some a → s.line.restartPending = true →
    (∀ char bit, char ≤ 2 → sendsRecessive a.message.chars char bit = true →
      exec (.arbitrationLoss char bit) s = .next { s with line := s.line.emptied }) ∧
    exec .senderBreakOff s = .next { s with line := s.line.emptied } ∧
    ∀ (m : Reception) (othersError othersHold : Bool), s.receives m = true →
      (othersError || s.signalsError m || (othersHold || s.signalsHold m)) = true →
      exec (.messageFailed m othersError othersHold) s =
        .next { s with line := { s.signalled m s.line.emptied with holdLatch := false } }) ∧
  ∀ (s : State) (m : Reception) (othersError othersHold : Bool),
    s.receives m = true → s.line.attempt = none →
    (othersError || s.signalsError m || (othersHold || s.signalsHold m)) = true →
    exec (.messageFailed m othersError othersHold) s =
      .next { s with line := { s.signalled m s.line with idle := false } }

/-- ABANDON: the sixteenth failure, a break-off or a trailer that fails (log entry 4), ends the slot's work, returns its count to
0, sets its held mark and raises the abandoned counter, with each slot's own consequence; the whole next state. The run state of the
line stands, so that a node that abandons its dump at a part still owns the run until it times out: the model's reading (log entry 36,
unsafe). Attempt counts of PLACE and EVICT slots without work: log entry 26. -/
def Obligations.AbandonConsequences : Prop :=
  ∀ (s : State) (a : Attempt) (f : FailureEvent) (c : Instr), s.line.attempt = some a → s.line.restartPending = false →
    (s.line.slots.ctl a.slot).attempts = 15 →
    (f = .breakOff ∧ c = .senderBreakOff) ∨
      (∃ m oe oh, f = .trailer m oe oh ∧ c = .messageFailed m oe oh ∧ s.fails m oe oh = true) →
    let t := s.line.slots.setCtl a.slot { attempts := 0, held := true }
    let l := match f with
      | .breakOff => s.line
      | .trailer m _ _ => s.signalled m s.line
    let becomes := fun (u : State) (slots : TxSlots) =>
      let next : State :=
        { u with
          line :=
            { l with
              attempt := none, idle := false, abandoned := satInc s.line.abandoned, slots := u.settled slots } }
      exec (.abandon f) s = .next next ∧ exec c s = .next next
    l.runOwner = s.line.runOwner ∧ l.inbound = s.line.inbound ∧
    (a.slot = .place → becomes s { t with cooldown := 8 }) ∧
    (a.slot = .dump → s.line.slots.dumpRun = none →
      becomes { s with engine := { s.engine with dumpOwed := false } } t) ∧
    (a.slot = .dump → s.line.slots.dumpRun ≠ none → becomes s { t with dumpRun := none }) ∧
    (a.slot = .joinFound → s.line.slots.joinFoundHolds ≠ some .found → becomes s t) ∧
    (a.slot = .joinFound → s.line.slots.joinFoundHolds = some .found →
      becomes
        { s with
          engine := { s.engine with replica := .empty, heldCheck := 0, build := none }
          ctl := { s.ctl with station := .joinSend, joinWait := 0, rejoins := satInc s.ctl.rejoins } }
        { t with joinFoundHolds := some .join }) ∧
    (a.slot = .evict → becomes s t) ∧
    (a.slot = .presence →
      becomes { s with ctl := { s.ctl with presence := s.cfg.presence } } { t with presenceWork := false }) ∧
    (a.slot = .report → becomes s { t with reportHolds := s.line.slots.reportFollowOn, reportFollowOn := none }) ∧
    ∀ k, a.slot = .level k →
      becomes s
        { t with
          level :=
            t.level.set k
              { ctl := { attempts := 0, held := true }, content := (s.line.slots.level.get k).followOn
                followOn := none } }

/-- MESSAGE_ACCEPTED of the node's own messages, the whole next state. JOIN: JOIN-WAIT with a wait of 32. FOUND: RUN with the
founding replica, the values of entry to RUN, and every channel resolved as one without an entry. PRESENCE: the presence countdown
reloaded. DUMP-OPEN: the run opened on the snapshot; DUMP-PART: the run moved on, or ended. PLACE and EVICT: count 0, the work judged
again from what it comes from. REPORT and LEVEL: the follow-on taken; in DUMP-RECEIVE before the closing part they fail the dump like
any message, and the queue is empty then, an own LEVEL that the same acceptance queued included (log entry 8), while the JOIN/FOUND
slot's held mark stands (log entry 25). While a restart waits, the acceptance empties slots and queue and no slot takes the outcome.
Counts of a PLACE or EVICT slot without work: log entry 26; the idle mark: log entry 21. -/
def Obligations.OwnMessageAccepted : Prop :=
  ∀ (s : State) (m : Reception) (msg : Message) (a : Attempt), Accepts s m msg → s.line.attempt = some a →
    a.message = msg → msg.source = s.own →
    let queue := s.queueAfter m msg a.crossed
    let ctl := s.ctl.heardFrom s.own
    let slots := s.line.slots
    let becomes := fun (u : State) (inbound : List Record) (slots : TxSlots) =>
      exec (.messageAccepted m) s = .next { u with line := u.line.accepted msg inbound (u.settled slots) }
    let reported :=
      { slots with
        report := { slots.report with attempts := 0 }, reportHolds := slots.reportFollowOn, reportFollowOn := none }
    let levelled := fun k : Num4 =>
      let l := slots.level.get k
      { slots with
        level := slots.level.set k { ctl := { l.ctl with attempts := 0 }, content := l.followOn, followOn := none } }
    (s.line.restartPending = false →
      (∀ e d, a.slot = .joinFound → msg.payload = .join e d → s.ctl.station = .joinSend →
        becomes { s with ctl := { ctl with station := .joinWait, joinWait := 32 } } queue
          { slots with joinFound := { slots.joinFound with attempts := 0 }, joinFoundHolds := none }) ∧
      (∀ p d, a.slot = .joinFound → msg.payload = .found p d → s.ctl.station = .foundSend →
        becomes
          { s with
            engine :=
              { s.engine with
                replica := { Replica.empty with roster := [{ station := s.own, incarnation := 0 }] }
                heldCheck := BitVec.ofNat 16 (s.own * 256 + 7), dumpOwed := false, build := none, witnesses := []
                mismatches := 0 }
            ctl :=
              { s.ctl with
                station := .run, ownIncarnation := 0, joinWait := 0, presence := s.own * 7 % s.cfg.presence + 1
                silence := [] }
            chans := s.chans.map fun c => c.resolve false
            timer := { s.timer with period := p } }
          queue { slots with joinFound := { slots.joinFound with attempts := 0 }, joinFoundHolds := none }) ∧
      (a.slot = .presence → s.ctl.station = .run →
        becomes { s with ctl := { ctl with presence := s.cfg.presence } } queue
          { slots with presence := { slots.presence with attempts := 0 }, presenceWork := false }) ∧
      (∀ f sn, a.slot = .dump → msg.payload = .dumpOpen f → a.snapshot = some sn → s.ctl.station = .run →
        becomes { s with ctl := ctl } queue
          { slots with dump := { slots.dump with attempts := 0 }, dumpRun := some { snapshot := sn, position := 0 } }) ∧
      (∀ p run, a.slot = .dump → msg.payload = .dumpPart p → a.snapshot = none → slots.dumpRun = some run →
        s.ctl.station = .run →
        becomes { s with ctl := ctl } queue
          { slots with
            dump := { slots.dump with attempts := 0 }
            dumpRun :=
              if run.position + 1 < run.snapshot.parts.length then some { run with position := run.position + 1 }
              else none }) ∧
      (∀ e es, a.slot = .place → msg.payload = .place e es → s.ctl.station = .run →
        becomes { s with ctl := ctl } queue { slots with place := { slots.place with attempts := 0 } }) ∧
      (∀ e ps, a.slot = .evict → msg.payload = .evict e ps → s.ctl.station = .run →
        becomes { s with ctl := ctl } queue { slots with evict := { slots.evict with attempts := 0 } }) ∧
      ((∀ b, s.ctl.station = .dumpReceive → s.engine.build = some b → b.closing = true) →
        (∀ w body, a.slot = .report → msg.payload = .report w body → becomes { s with ctl := ctl } queue reported) ∧
        ∀ k op mask v, a.slot = .level k → msg.payload = .level op mask v →
          becomes { s with ctl := ctl } queue (levelled k)) ∧
      ∀ b, s.ctl.station = .dumpReceive → s.engine.build = some b → b.closing = false →
        let fails := fun slots : TxSlots =>
          becomes
            { s with
              line := { s.line with holdLatch := false }
              engine := { s.engine with replica := .empty, heldCheck := 0, build := none }
              ctl := { ctl with station := .joinSend, joinWait := 0, rejoins := satInc s.ctl.rejoins } }
            []
            { slots with
              joinFound := { slots.joinFound with attempts := 0 }, joinFoundHolds := some .join }
        (∀ w body, a.slot = .report → msg.payload = .report w body → fails reported) ∧
        ∀ k op mask v, a.slot = .level k → msg.payload = .level op mask v → fails (levelled k)) ∧
    (s.line.restartPending = true → s.ctl.station = .joinSend →
      exec (.messageAccepted m) s =
        .next
          { s with
            line := { s.line.accepted msg [] s.line.emptied.slots with holdLatch := false, restartPending := false }
            ctl := ctl })

/-! ## Applying records -/

/-- A far PLACE, JOIN, EVICT or SHED record is not applied: it is removed and the node makes a warm restart, which keeps
configuration, period, keys, counters, targets and fault holds and gives up the membership. While an attempt of the node's own
is under way, the line interface's share waits for its end. -/
def Obligations.FarRecordRestarts : Prop :=
  ∀ (s : State) (r : Record) (rest : List Record) (e : Byte) (c : Instr), AtHead s r rest → s.ctl.station = .run →
    r.payload.e = some e → 5 ≤ forward s.timer.period e → forward s.timer.period e ≤ 128 →
    (c, r.payload.kind) ∈ [(.applyJoin, 1), (.applyEvict, 5), (.applyPlace, 6), (.applyShed, 7)] →
    ∃ t, exec c s = .next t ∧
      t.pending = s.pending ∧ t.freeIndex = s.freeIndex ∧ t.loader = s.loader ∧ t.cfg = s.cfg ∧ t.touch = s.touch ∧
      t.timer = { s.timer with adoptionWait := 4 * s.cfg.presence } ∧
      t.engine =
        { s.engine with
          replica := .empty, heldCheck := 0, dumpOwed := false, build := none, witnesses := [], mismatches := 0 } ∧
      t.out =
        { s.out with
          pending := [], blank := false, chan := s.out.chan.map fun x => { x with plan := none, lowCount := 0 } } ∧
      (∀ n, t.outActive n = false) ∧
      (∀ n,
        let x := s.chans.get n
        t.chans.get n =
          if x.state = .unused ∨ x.state = .faulted then { x with owed := false, revised := false }
          else if 0 < x.target then { x with state := .seeking, owed := true, revised := true }
          else { x with state := .dark, owed := false, revised := false }) ∧
      t.ctl =
        { s.ctl with
          station := .joinSend, joinWait := 0, presence := 0, silence := [], rejoins := satInc s.ctl.rejoins } ∧
      (s.line.attempt = none →
        t.line =
          { s.line with
            inbound := [], holdLatch := false, restartPending := false
            slots := { TxSlots.empty with joinFoundHolds := some .join } }) ∧
      (s.line.attempt ≠ none → t.line = { s.line.popped rest with restartPending := true })

/-- A placing entry is rejected for the first of the four reasons that holds, and changes nothing; one that is not rejected
becomes the last entry of the list, in place of the one its channel held; a release from a member removes the channel's entry,
or changes nothing. The Slot Map follows. -/
def Obligations.PlaceEntryApplied : Prop :=
  ∀ (guard budget source : Nat) (r : Replica) (p : PlaceEntry), MapAgrees r.claims r.slotMap →
    let x := placeEntry guard budget source r p
    let others := r.claims.filter fun c => !Claim.isFor source p.channel c
    let own := fun k => match claimOf r.claims source p.channel with
      | some c => if c.start ≤ k ∧ k < c.start + c.len then c.units else 0
      | none => 0
    let crowded := ∃ k, p.start.toNat ≤ k ∧ k < p.start.toNat + p.len.toNat ∧
      budget < occupancy r.slotMap k - own k + p.units.toNat
    MapAgrees x.1.claims x.1.slotMap ∧
    (x.1.roster = r.roster ∧ x.1.shed = r.shed ∧ x.1.cursor = r.cursor ∧ x.1.stateCount = r.stateCount) ∧
    (isMember r.roster source = false → x = (r, .rejected .notMember)) ∧
    (p.len ≠ 0 → isMember r.roster source = true → 128 - 2 * guard < p.len.toNat → x = (r, .rejected .length)) ∧
    (p.len ≠ 0 → isMember r.roster source = true → p.len.toNat ≤ 128 - 2 * guard →
      p.start.toNat < guard ∨ 128 - guard < p.start.toNat + p.len.toNat → x = (r, .rejected .area)) ∧
    (p.len ≠ 0 → isMember r.roster source = true → guard ≤ p.start.toNat → p.len.toNat ≤ 128 - 2 * guard →
      p.start.toNat + p.len.toNat ≤ 128 - guard → crowded → x = (r, .rejected .over)) ∧
    (p.len ≠ 0 → isMember r.roster source = true → guard ≤ p.start.toNat → p.len.toNat ≤ 128 - 2 * guard →
      p.start.toNat + p.len.toNat ≤ 128 - guard → ¬ crowded →
      x.1.claims =
        others ++
          [{ station := source, channel := p.channel, cls := p.cls.val, units := p.units.toNat, start := p.start.toNat
             len := p.len.toNat }] ∧
      x.2 = .placed { start := p.start.toNat, len := p.len.toNat }) ∧
    (p.len = 0 → isMember r.roster source = true → claimOf r.claims source p.channel ≠ none →
      x.1.claims = others ∧ x.2 = .released) ∧
    (p.len = 0 → isMember r.roster source = true → claimOf r.claims source p.channel = none → x = (r, .noChange))

/-- APPLY_PLACE of a record that is not far: the entries applied in order, state count and check, the Pending Change Queue, with no
entry for an UNUSED channel (log entry 31), and the outcomes for an own record, handed over in order, relief when some slot fell, the
blank flag when overdue, and the head removed; an older entry of the Pending Change Queue goes only for a new one of the same channel
and effective period. A PLACE or EVICT slot whose work has ended has count 0 (R95, R96, log entry 26). The entries are taken in order,
each on what the earlier ones left. -/
def Obligations.PlaceRecordApplied : Prop :=
  (∀ (guard budget source : Nat) (r : Replica) (p : PlaceEntry) (ps : List PlaceEntry),
    placeEntries guard budget source r [] = (r, []) ∧
    let x := placeEntry guard budget source r p
    let y := placeEntries guard budget source x.1 ps
    placeEntries guard budget source r (p :: ps) = (y.1, (p.channel, x.2) :: y.2)) ∧
  ∀ (s : State) (r : Record) (rest : List Record) (e : Byte) (es : List PlaceEntry), AtHead s r rest →
    s.ctl.station = .run → r.payload = .place e es →
    ¬ (5 ≤ forward s.timer.period e ∧ forward s.timer.period e ≤ 128) →
    let before := s.engine.replica
    let x := placeEntries s.cfg.guard s.budgetNow r.source before es
    let after := { x.1 with stateCount := before.stateCount + 1 }
    let overdue := forward s.timer.period e = 0 ∨ 129 ≤ forward s.timer.period e
    let due := if overdue then s.timer.period + 1 else e
    let fell := ∃ k < 128, occupancy after.slotMap k < occupancy before.slotMap k
    ∃ t, exec .applyPlace s = .next t ∧
      t.engine = { s.engine with replica := after, heldCheck := stateCheck after, rejected := t.engine.rejected } ∧
      t.line = { s.line.popped rest with slots := t.settled s.line.slots } ∧
      t.out = { s.out with pending := t.out.pending, blank := s.out.blank || decide overdue } ∧
      { t with engine := s.engine, line := s.line, out := s.out, chans := s.chans } = s ∧
      (r.source ≠ s.own →
        t.engine.rejected = s.engine.rejected ∧ t.out.pending = s.out.pending ∧
        (fell → t.chans = s.chans.map Channel.relief) ∧ (¬ fell → t.chans = s.chans)) ∧
      (r.source = s.own →
        (∀ y ∈ x.2, y.2.touches = true → (s.chans.get y.1).state ≠ .unused →
          { channel := y.1, e := due, placement := (claimOf after.claims s.own y.1).map Claim.placement } ∈
            t.out.pending) ∧
        (∀ z ∈ t.out.pending,
          z ∈ s.out.pending ∨
            (z.e = due ∧ (s.chans.get z.channel).state ≠ .unused ∧ ∃ o, (z.channel, o) ∈ x.2 ∧ o.touches = true)) ∧
        (∀ z ∈ s.out.pending,
          z ∈ t.out.pending ∨
            (z.e = due ∧ (s.chans.get z.channel).state ≠ .unused ∧ ∃ o, (z.channel, o) ∈ x.2 ∧ o.touches = true)) ∧
        t.engine.rejected =
          x.2.foldl (fun n y => match y.2 with | .rejected _ => satInc n | _ => n) s.engine.rejected ∧
        let cs :=
          x.2.foldl
            (fun cs y => cs.set y.1 ((cs.get y.1).outcome (claimOf after.claims s.own y.1).isSome y.2)) s.chans
        (fell → t.chans = cs.map Channel.relief) ∧ (¬ fell → t.chans = cs))

/-- A JOIN of another digest changes nothing but the dump-owed flag, and blanks when overdue; its removal from the queue ends
it. A far one restarts the node all the same. -/
def Obligations.MismatchedJoinApplied : Prop :=
  ∀ (s : State) (r : Record) (rest : List Record) (e : Byte) (d : Word16), AtHead s r rest → s.ctl.station = .run →
    r.payload = .join e d → d ≠ s.loader.digest →
    let far := 5 ≤ forward s.timer.period e ∧ forward s.timer.period e ≤ 128
    (¬ far →
      exec .applyJoin s =
        .next
          { s with
            engine := { s.engine with dumpOwed := true }
            out :=
              { s.out with
                blank :=
                  s.out.blank || decide (forward s.timer.period e = 0 ∨ 129 ≤ forward s.timer.period e) }
            line := s.line.popped rest }) ∧
    (far → exec .applyJoin s = .next s.warmRestart.dropHead)

/-- APPLY_JOIN of the line's digest from another station: its claims removed, its Roster entry added at incarnation 0 or
advanced, a silence counter for a new member, the dump-owed flag set, the blank flag when overdue, and relief when some slot fell. A
PLACE or EVICT slot whose work has ended has count 0 (log entry 26); nothing else changes. -/
def Obligations.JoinRecordApplied : Prop :=
  ∀ (s : State) (r : Record) (rest : List Record) (e : Byte), AtHead s r rest → s.ctl.station = .run →
    r.payload = .join e s.loader.digest → r.source ≠ s.own →
    MapAgrees s.engine.replica.claims s.engine.replica.slotMap → RosterLaw s.engine.replica.roster →
    ¬ (5 ≤ forward s.timer.period e ∧ forward s.timer.period e ≤ 128) →
    let before := s.engine.replica
    ∃ t, exec .applyJoin s = .next t ∧
      t.engine.replica.claims = before.claims.filter (fun c => c.station != r.source) ∧
      MapAgrees t.engine.replica.claims t.engine.replica.slotMap ∧
      t.engine.replica.shed = before.shed ∧ t.engine.replica.cursor = before.cursor ∧
      t.engine.replica.stateCount = before.stateCount + 1 ∧ t.engine.heldCheck = stateCheck t.engine.replica ∧
      (∀ st, st ≠ r.source → memberOf t.engine.replica.roster st = memberOf before.roster st) ∧
      memberOf t.engine.replica.roster r.source =
        some
          { station := r.source
            incarnation := match memberOf before.roster r.source with
              | some m => m.incarnation + 1
              | none => 0 } ∧
      t.engine.replica.roster.Pairwise (fun a b => a.station < b.station) ∧
      t.engine =
        { s.engine with replica := t.engine.replica, heldCheck := t.engine.heldCheck, dumpOwed := true } ∧
      { t with engine := s.engine, line := s.line, out := s.out, chans := s.chans, ctl := s.ctl } = s ∧
      t.ctl =
        { s.ctl with
          silence :=
            if isMember before.roster r.source then s.ctl.silence
            else s.ctl.silence ++ [{ station := r.source, count := 0 }] } ∧
      t.out =
        { s.out with
          blank := s.out.blank || decide (forward s.timer.period e = 0 ∨ 129 ≤ forward s.timer.period e) } ∧
      t.line = { s.line.popped rest with slots := t.settled s.line.slots } ∧
      ((∃ k < 128, occupancy t.engine.replica.slotMap k < occupancy before.slotMap k) →
        t.chans = s.chans.map Channel.relief) ∧
      ((∀ k < 128, occupancy before.slotMap k ≤ occupancy t.engine.replica.slotMap k) → t.chans = s.chans)

/-- APPLY_EVICT: without a matching own pair, the stations whose pair matches leave the Roster with their claims and counters,
with relief when some slot fell and the blank flag when overdue; a PLACE or EVICT slot whose work has ended has count 0 (log entry 26),
and nothing else changes. A matching own pair, wherever it stands among the pairs, ends in a warm restart. -/
def Obligations.EvictRecordApplied : Prop :=
  ∀ (s : State) (r : Record) (rest : List Record) (e : Byte) (ps : List Pair), AtHead s r rest →
    s.ctl.station = .run → r.payload = .evict e ps → RosterLaw s.engine.replica.roster →
    MapAgrees s.engine.replica.claims s.engine.replica.slotMap →
    ¬ (5 ≤ forward s.timer.period e ∧ forward s.timer.period e ≤ 128) →
    let before := s.engine.replica
    let leaves := fun st => ∃ p ∈ ps, p.station.toNat = st ∧ pairMatches before.roster p = true
    (¬ leaves s.own →
      ∃ t, exec .applyEvict s = .next t ∧
        (∀ m, m ∈ t.engine.replica.roster ↔ m ∈ before.roster ∧ ¬ leaves m.station) ∧
        (∀ c, c ∈ t.engine.replica.claims ↔ c ∈ before.claims ∧ ¬ leaves c.station) ∧
        t.engine.replica.roster.Sublist before.roster ∧ t.engine.replica.claims.Sublist before.claims ∧
        MapAgrees t.engine.replica.claims t.engine.replica.slotMap ∧
        t.engine.replica.stateCount = before.stateCount + 1 ∧ t.engine.heldCheck = stateCheck t.engine.replica ∧
        t.engine.replica.shed = before.shed ∧ t.engine.replica.cursor = before.cursor ∧
        t.engine = { s.engine with replica := t.engine.replica, heldCheck := t.engine.heldCheck } ∧
        { t with engine := s.engine, line := s.line, out := s.out, chans := s.chans, ctl := s.ctl } = s ∧
        t.ctl =
          { s.ctl with
            silence := s.ctl.silence.filter fun x => isMember t.engine.replica.roster x.station } ∧
        t.out =
          { s.out with
            blank := s.out.blank || decide (forward s.timer.period e = 0 ∨ 129 ≤ forward s.timer.period e) } ∧
        ((∃ k < 128, occupancy t.engine.replica.slotMap k < occupancy before.slotMap k) →
          t.chans = s.chans.map Channel.relief) ∧
        ((∀ k < 128, occupancy before.slotMap k ≤ occupancy t.engine.replica.slotMap k) → t.chans = s.chans) ∧
        t.line = { s.line.popped rest with slots := t.settled s.line.slots }) ∧
    (leaves s.own →
      exec .applyEvict s = .next s.warmRestart.dropHead ∧
      (s.line.attempt = none →
        ∃ t, exec .applyEvict s = .next t ∧ t.ctl.station = .joinSend ∧ t.ctl.rejoins = satInc s.ctl.rejoins ∧
          t.engine.replica = .empty ∧ t.out.pending = [] ∧ t.line.inbound = [] ∧ (∀ n, t.outActive n = false)))

/-- APPLY_SHED at the level in force and at a lower one: the level and the state count, no claim removed, the held check 4096
less for each level of difference; relief at a lower level alone. A PLACE or EVICT slot whose work has ended has count 0 (log entry
26). A far one restarts the node. -/
def Obligations.ShedNotRaised : Prop :=
  ∀ (s : State) (r : Record) (rest : List Record) (e : Byte) (level : Num4), AtHead s r rest →
    s.ctl.station = .run → r.payload = .shed e level → level.val ≤ s.engine.replica.shed.val →
    let far := 5 ≤ forward s.timer.period e ∧ forward s.timer.period e ≤ 128
    let after :=
      { s.engine.replica with shed := level, stateCount := s.engine.replica.stateCount + 1 }
    (¬ far →
      ∃ t, exec .applyShed s = .next t ∧
        t.engine = { s.engine with replica := after, heldCheck := stateCheck after } ∧
        t.engine.heldCheck + BitVec.ofNat 16 (4096 * (s.engine.replica.shed.val - level.val)) =
          stateCheck s.engine.replica ∧
        t.chans = (if level.val < s.engine.replica.shed.val then s.chans.map Channel.relief else s.chans) ∧
        t.out =
          { s.out with
            blank := s.out.blank || decide (forward s.timer.period e = 0 ∨ 129 ≤ forward s.timer.period e) } ∧
        t.line = { s.line.popped rest with slots := t.settled s.line.slots } ∧
        { t with engine := s.engine, line := s.line, out := s.out, chans := s.chans } = s) ∧
    (far → exec .applyShed s = .next s.warmRestart.dropHead)

/-- APPLY_SHED at a higher level: claims removed one at a time until no slot holds more than the new effective budget; the rest
keep their order; while some entry covers a slot above the budget, the one removed is of the highest class among those, and the
latest in the list among equals. Each own channel that lost its entry is shed: WAITING and owed, or FAULTED still and not owed, its
target, last-lit level and revised mark kept; and unless it is UNUSED (log entry 31) it is entered in the Pending Change Queue with
none, older entries staying but for those of the same channel and effective period. Then every own channel takes relief when some
slot fell. The others stand. The blank flag is set when overdue. A PLACE or EVICT slot whose work has ended has count 0 (log entry
26). -/
def Obligations.ShedRaised : Prop :=
  (∀ (s : State) (r : Record) (rest : List Record) (e : Byte) (level : Num4), AtHead s r rest →
    s.ctl.station = .run → r.payload = .shed e level →
    ¬ (5 ≤ forward s.timer.period e ∧ forward s.timer.period e ≤ 128) → s.engine.replica.shed.val < level.val →
    MapAgrees s.engine.replica.claims s.engine.replica.slotMap →
    let before := s.engine.replica
    let due := if forward s.timer.period e = 0 ∨ 129 ≤ forward s.timer.period e then s.timer.period + 1 else e
    let budget := match level with
      | 0 => s.cfg.budget
      | 1 => 3 * s.cfg.budget / 4
      | 2 => s.cfg.budget / 2
      | 3 => s.cfg.budget / 4
    ∃ t, exec .applyShed s = .next t ∧
      t.engine.replica =
        { (shedLoop budget before.claims.length { before with shed := level }).1 with
          stateCount := before.stateCount + 1 } ∧
      t.engine.replica.shed = level ∧
      t.engine.replica.stateCount = before.stateCount + 1 ∧ t.engine.heldCheck = stateCheck t.engine.replica ∧
      t.out =
        { s.out with
          pending := t.out.pending
          blank := s.out.blank || decide (forward s.timer.period e = 0 ∨ 129 ≤ forward s.timer.period e) } ∧
      MapLaw s.cfg.budget t.engine.replica.claims t.engine.replica.slotMap level ∧
      t.engine.replica.claims.Sublist before.claims ∧ t.engine.replica.roster = before.roster ∧
      t.engine.replica.cursor = before.cursor ∧
      t.engine = { s.engine with replica := t.engine.replica, heldCheck := t.engine.heldCheck } ∧
      { t with engine := s.engine, line := s.line, out := s.out, chans := s.chans } = s ∧
      t.line = { s.line.popped rest with slots := t.settled s.line.slots } ∧
      (let lost := fun n => claimOf before.claims s.own n ≠ none ∧ claimOf t.engine.replica.claims s.own n = none
      let fell := ∃ k < 128, occupancy t.engine.replica.slotMap k < occupancy before.slotMap k
      (∀ n, lost n → (s.chans.get n).state ≠ .unused →
        { channel := n, e := due, placement := none } ∈ t.out.pending) ∧
      (∀ z ∈ t.out.pending,
        z ∈ s.out.pending ∨
          (z.e = due ∧ z.placement = none ∧ (s.chans.get z.channel).state ≠ .unused ∧ lost z.channel)) ∧
      (∀ z ∈ s.out.pending,
        z ∈ t.out.pending ∨ (z.e = due ∧ (s.chans.get z.channel).state ≠ .unused ∧ lost z.channel)) ∧
      ∀ n,
        let x := s.chans.get n
        ∃ y, (lost n →
            y =
              if x.state = .unused then x
              else if x.state = .faulted then { x with owed := false }
              else { x with state := .waiting, owed := true }) ∧
          (¬ lost n → y = x) ∧
          (fell →
            t.chans.get n =
              if y.state = .dimmed ∨ y.state = .waiting then { y with state := .seeking, owed := true } else y) ∧
          (¬ fell → t.chans.get n = y))) ∧
  (∀ (budget n : Nat) (r : Replica),
    shedLoop budget 0 r = (r, []) ∧
    (shedChoice r.slotMap budget r.claims = none → shedLoop budget (n + 1) r = (r, [])) ∧
    ∀ c, shedChoice r.slotMap budget r.claims = some c →
      let r' := r.removeWhere (Claim.isFor c.station c.channel)
      shedLoop budget (n + 1) r = ((shedLoop budget n r').1, c :: (shedLoop budget n r').2) ∧
      r'.claims = r.claims.filter (fun d => d.station != c.station || d.channel != c.channel) ∧
      (r'.roster = r.roster ∧ r'.shed = r.shed ∧ r'.cursor = r.cursor ∧ r'.stateCount = r.stateCount) ∧
      (MapAgrees r.claims r.slotMap → MapAgrees r'.claims r'.slotMap)) ∧
  ∀ (m : List Nat) (budget : Nat) (cs : List Claim),
    let crowded := fun c : Claim => ∃ k < 128, c.start ≤ k ∧ k < c.start + c.len ∧ budget < occupancy m k
    (shedChoice m budget cs = none ↔ ∀ c ∈ cs, ¬ crowded c) ∧
    ∀ c, shedChoice m budget cs = some c →
      ∃ l₁ l₂, cs = l₁ ++ c :: l₂ ∧ crowded c ∧ (∀ d ∈ l₁, crowded d → d.cls ≤ c.cls) ∧
        ∀ d ∈ l₂, crowded d → d.cls < c.cls

/-- APPLY_DUMP_OPEN, APPLY_QUERY and DISCARD_RECORD: the dump-owed flag cleared, and by another station's DUMP-OPEN the count and
held mark of a DUMP slot that has no run; that the held mark of an own abandon is cleared too when the flag was already clear is the
model's choice (log entry 32); the REPORT slot, or its follow-on, filled; a record that the station state does not use removed without
effect. -/
def Obligations.OtherRecordsApplied : Prop :=
  ∀ (s : State) (r : Record) (rest : List Record), AtHead s r rest →
    (∀ f, s.ctl.station = .run → r.payload = .dumpOpen f →
      exec .applyDumpOpen s =
        .next
          { s with
            engine := { s.engine with dumpOwed := false }
            line :=
              { s.line.popped rest with
                slots :=
                  if s.line.slots.dumpRun = none ∧ r.source ≠ s.own then
                    { s.line.slots with dump := { attempts := 0, held := false } }
                  else s.line.slots } }) ∧
    (∀ w, s.ctl.station.listening = true → r.payload = .query w →
      exec .applyQuery s =
        .next
          { s with
            line :=
              { s.line.popped rest with
                slots :=
                  if s.line.busy .report = true then
                    { s.line.slots with reportFollowOn := some { querier := r.source, what := w } }
                  else
                    { s.line.slots with
                      reportHolds := some { querier := r.source, what := w }
                      report := { attempts := 0, held := false } } } }) ∧
    ((s.ctl.station = .run ∧ r.payload.kind ∈ [2, 4]) ∨
        (s.ctl.station = .dumpReceive ∧ r.payload.kind ∈ [1, 2, 3, 5, 6, 7, 8, 10, 11]) ∨
        ((s.ctl.station = .joinSend ∨ s.ctl.station = .joinWait ∨ s.ctl.station = .foundSend) ∧
          r.payload.kind ∈ [1, 2, 3, 4, 5, 6, 7, 8, 10, 11]) →
      exec .discardRecord s = .next { s with line := s.line.popped rest })

/-- The parts of a dump added to the build: entries of the Roster in rising order, the cursor once, claims that keep the laws;
whatever breaks the dump's form spoils the build and is not added, claims being counted all the same. The entries of a part are
added one by one, in order. -/
def Obligations.DumpPartsAdded : Prop :=
  ∀ (guard budget source : Nat) (b : DumpBuild),
    (source ≠ b.source → ∀ p, DumpBuild.addPart guard budget source b p = { b with spoiled := true }) ∧
    (∀ c, DumpBuild.addPart guard budget b.source b (DumpPart.cursor c) =
      if b.phase = BuildPhase.roster then { b with cursor := some c, phase := .claims } else { b with spoiled := true }) ∧
    (∀ es, b.phase = BuildPhase.claims →
      DumpBuild.addPart guard budget b.source b (DumpPart.roster es) = { b with spoiled := true }) ∧
    (∀ p : Pair, b.phase = BuildPhase.roster →
      let st := p.station.toNat
      DumpBuild.addPart guard budget b.source b (DumpPart.roster [p]) =
        if 1 ≤ st ∧ st ≤ 30 ∧ (∀ m, b.roster.getLast? = some m → m.station < st) ∧ b.roster.length < 30 then
          { b with roster := b.roster ++ [{ station := st, incarnation := p.incarnation }] }
        else { b with spoiled := true }) ∧
    (b.phase = BuildPhase.roster →
      DumpBuild.addPart guard budget b.source b (DumpPart.roster []) = b ∧
      ∀ (p : Pair) (ps : List Pair),
        DumpBuild.addPart guard budget b.source b (DumpPart.roster (p :: ps)) =
          DumpBuild.addPart guard budget b.source
            (DumpBuild.addPart guard budget b.source b (DumpPart.roster [p])) (DumpPart.roster ps)) ∧
    (∀ st,
      DumpBuild.addPart guard budget b.source b (DumpPart.claims st []) =
        { b with phase := .claims, spoiled := b.spoiled || decide (b.phase = BuildPhase.roster) } ∧
      ∀ (p : PlaceEntry) (ps : List PlaceEntry),
        DumpBuild.addPart guard budget b.source b (DumpPart.claims st (p :: ps)) =
          DumpBuild.addPart guard budget b.source
            (DumpBuild.addPart guard budget b.source b (DumpPart.claims st [p])) (DumpPart.claims st ps)) ∧
    ∀ (st : Nat) (p : PlaceEntry),
      let good := isMember b.roster st = true ∧ claimOf b.claims st p.channel = none ∧ guard ≤ p.start.toNat ∧
        1 ≤ p.len.toNat ∧ p.len.toNat ≤ 128 - 2 * guard ∧ p.start.toNat + p.len.toNat ≤ 128 - guard ∧
        (∀ k, p.start.toNat ≤ k → k < p.start.toNat + p.len.toNat →
          occupancy b.occupancy k + p.units.toNat ≤ effectiveBudget budget b.shed) ∧ b.claims.length < 120
      let b₀ : DumpBuild := { b with phase := .claims, spoiled := b.spoiled || decide (b.phase = BuildPhase.roster) }
      (good → DumpBuild.addPart guard budget b.source b (DumpPart.claims st [p]) =
        { b₀ with
          received := b.received + 1
          claims :=
            b.claims ++
              [{ station := st, channel := p.channel, cls := p.cls.val, units := p.units.toNat, start := p.start.toNat
                 len := p.len.toNat }]
          occupancy := addOver b.occupancy p.start.toNat p.len.toNat p.units.toNat }) ∧
      (¬ good → DumpBuild.addPart guard budget b.source b (DumpPart.claims st [p]) =
        { b₀ with received := b.received + 1, spoiled := true })

/-- APPLY_DUMP_PART: a part that does not close the dump leaves the build with it; the closing part installs a complete build
and takes the station to RUN with the values of its entry, every channel resolved against the installed claims, and each own claim
entered in the Pending Change Queue under the next period, but for an UNUSED channel's, which stays in the Claim List alone (log entry
31); or returns it to JOIN-SEND with the queue emptied, the JOIN/FOUND slot's held mark standing (log entry 25). -/
def Obligations.DumpPartApplied : Prop :=
  ∀ (s : State) (r : Record) (rest : List Record) (p : DumpPart) (b₀ : DumpBuild), AtHead s r rest →
    s.ctl.station = .dumpReceive → r.payload = .dumpPart p → s.engine.build = some b₀ →
    let b := b₀.addPart s.cfg.guard s.cfg.budget r.source p
    let complete := b.spoiled = false ∧ b.roster.length = b.rosterCount ∧ b.received = b.claimCount ∧
      b.cursor ≠ none ∧ isMember b.roster s.own = true
    (¬ (r.source = b₀.source ∧ r.lock = false) →
      exec .applyDumpPart s =
        .next { s with engine := { s.engine with build := some b }, line := s.line.popped rest }) ∧
    (r.source = b₀.source → r.lock = false → complete →
      ∃ t, exec .applyDumpPart s = .next t ∧ t.engine.build = none ∧ t.engine.dumpOwed = false ∧
        t.engine.replica.claims = b.claims ∧ t.engine.replica.slotMap = b.occupancy ∧
        t.engine.replica.roster = b.roster ∧ t.engine.replica.shed = b.shed ∧
        t.engine.replica.stateCount = b.stateCount ∧
        (∀ c, b.cursor = some c →
          let bad := c.valid = false ∨ c.last.toNat < c.first.toNat ∨ 119 < c.last.toNat ∨ c.next.toNat < c.first.toNat ∨
            c.last.toNat + 1 < c.next.toNat
          (bad → t.engine.replica.cursor.valid = false) ∧
          (¬ bad →
            t.engine.replica.cursor = { c with complete := c.complete || decide (c.next.toNat = c.last.toNat + 1) })) ∧
        t.engine.heldCheck = stateCheck t.engine.replica ∧ t.engine.witnesses = [] ∧ t.engine.mismatches = 0 ∧
        t.ctl =
          { s.ctl with
            station := .run, joinWait := 0, ownIncarnation := t.ctl.ownIncarnation
            presence := s.own * 7 % s.cfg.presence + 1
            silence := (b.roster.filter fun m => m.station != s.own).map fun m => { station := m.station, count := 0 } } ∧
        (∀ m, memberOf b.roster s.own = some m → t.ctl.ownIncarnation = m.incarnation) ∧ t.timer = s.timer ∧
        (∀ n, t.chans.get n = (s.chans.get n).resolve (claimOf b.claims s.own n).isSome) ∧
        (t.out = { s.out with pending := t.out.pending } ∧
          (∀ n c, claimOf b.claims s.own n = some c → (s.chans.get n).state ≠ .unused →
            { channel := n, e := s.timer.period + 1, placement := some { start := c.start, len := c.len } } ∈
              t.out.pending) ∧
          (∀ x ∈ t.out.pending,
            x ∈ s.out.pending ∨
              (x.e = s.timer.period + 1 ∧ (s.chans.get x.channel).state ≠ .unused ∧
                claimOf b.claims s.own x.channel ≠ none)) ∧
          ∀ x ∈ s.out.pending,
            x ∈ t.out.pending ∨
              (x.e = s.timer.period + 1 ∧ (s.chans.get x.channel).state ≠ .unused ∧
                claimOf b.claims s.own x.channel ≠ none)) ∧
        t.line = { s.line.popped rest with slots := { s.line.slots with joinFoundHolds := none } } ∧
        t.engine.rejected = s.engine.rejected ∧
        { t with engine := s.engine, line := s.line, out := s.out, chans := s.chans, ctl := s.ctl } = s) ∧
    (r.source = b₀.source → r.lock = false → ¬ complete →
      exec .applyDumpPart s =
        .next
          { s with
            line :=
              { s.line with
                inbound := [], holdLatch := false
                slots :=
                  { s.line.slots with
                    joinFound := { s.line.slots.joinFound with attempts := 0 }, joinFoundHolds := some .join } }
            engine := { s.engine with replica := .empty, heldCheck := 0, build := none }
            ctl := { s.ctl with station := .joinSend, joinWait := 0, rejoins := satInc s.ctl.rejoins } })

/-- A PRESENCE that is not judged is passed over; of a judged one a match empties the tally; a mismatch adds its source and
raises the count; two witnesses, or in a Roster of two a third mismatch with a lower-numbered station, restart the node. -/
def Obligations.PresenceJudged : Prop :=
  ∀ (s : State) (r : Record) (rest : List Record) (p : Byte) (n c : Word16) (i : Byte), AtHead s r rest →
    s.ctl.station = .run → r.payload = .presence p n c i →
    let judged := isMember s.engine.replica.roster r.source = true ∧ r.source ≠ s.own ∧ r.boundary = false
    let agrees := p = r.stamp ∧ n = s.engine.replica.stateCount ∧ c = s.engine.heldCheck
    let w := if r.source ∈ s.engine.witnesses then s.engine.witnesses else s.engine.witnesses ++ [r.source]
    let diverged := 2 ≤ w.length ∨
      (s.engine.replica.roster.length = 2 ∧ isMember s.engine.replica.roster s.own = true ∧
        3 ≤ (satInc s.engine.mismatches).toNat ∧ r.source < s.own)
    (¬ judged → exec .applyPresence s = .next { s with line := s.line.popped rest }) ∧
    (judged → agrees →
      exec .applyPresence s =
        .next { s with engine := { s.engine with witnesses := [], mismatches := 0 }, line := s.line.popped rest }) ∧
    (judged → ¬ agrees → ¬ diverged →
      exec .applyPresence s =
        .next
          { s with
            engine := { s.engine with witnesses := w, mismatches := satInc s.engine.mismatches }
            line := s.line.popped rest }) ∧
    (judged → ¬ agrees → diverged → exec .applyPresence s = .next s.warmRestart.dropHead)

/-! ## Lighting -/

/-- APPLY_LEVEL in every listening state: the operation on the channels of the mask that are not UNUSED, and nothing else. -/
def Obligations.LevelRecordApplied : Prop :=
  ∀ (s : State) (r : Record) (rest : List Record) (op : LevelOp) (mask : BitVec 4) (v : Byte), AtHead s r rest →
    s.ctl.station.listening = true → r.payload = .level op mask v →
    let a := 128 - 2 * s.cfg.guard
    ∃ t, exec .applyLevel s = .next t ∧
      (∀ n, t.chans.get n =
        let x := s.chans.get n
        if mask.getLsbD n.val = true ∧ x.state ≠ .unused then
          { x with
            target := newTarget a op v.toNat x.target x.lastLit
            lastLit := newLastLit a op v.toNat x.target x.lastLit
            state := .seeking, owed := true, revised := true }
        else x) ∧
      t.line = s.line.popped rest ∧ { t with line := s.line, chans := s.chans } = s

/-- The four operations on target and last-lit, and the merging of a key's operation with what its LEVEL slot holds. An operation
given to the slot becomes its follow-on, or merges into that, while the slot's own attempt is on the line; at any other time it
merges into the content, and a content that changes has attempt count 0 and the held mark clear. -/
def Obligations.LevelOperations : Prop :=
  (∀ a v t lit : Nat, 1 ≤ lit →
    (newTarget a .set v t lit = min v a ∧ newLastLit a .set v t lit = if v = 0 ∧ 0 < t then t else lit) ∧
    (newTarget a .toggle v t lit = (if 0 < t then 0 else lit) ∧
      newLastLit a .toggle v t lit = if 0 < t then t else lit) ∧
    (newTarget a .stepUp v t lit = min a (t + v) ∧ newLastLit a .stepUp v t lit = lit) ∧
    (newTarget a .stepDown v t lit = max 0 (t - v) ∧
      newLastLit a .stepDown v t lit = if t ≤ v ∧ 0 < t then t else lit) ∧
    ∀ op, 1 ≤ newLastLit a op v t lit) ∧
  (∀ held new : LevelRequest,
    mergeLevel none new = some new ∧
    (held.op = .toggle → new.op = .toggle → mergeLevel (some held) new = none) ∧
    (held.op = new.op → held.op = .stepUp ∨ held.op = .stepDown →
      mergeLevel (some held) new = some { new with value := min (held.value + new.value) 128 }) ∧
    (held.op ≠ new.op → mergeLevel (some held) new = some new)) ∧
  (∀ (l : LevelSlot) (new : LevelRequest),
    l.give true new = { l with followOn := mergeLevel l.followOn new } ∧
    (mergeLevel l.content new = l.content → l.give false new = l) ∧
    (mergeLevel l.content new ≠ l.content →
      l.give false new = { l with content := mergeLevel l.content new, ctl := { attempts := 0, held := false } })) ∧
  ∀ (l : LineInterface) (id : SlotId), l.busy id = true ↔ ∃ a, l.attempt = some a ∧ a.slot = id

/-- R139: a SCENE-MORE that finds the cursor invalid or complete, or of another source, is ignored; the cursor's own source
assigns its levels from the next index on. -/
def Obligations.SceneMoreApplied : Prop :=
  ∀ (s : State) (r : Record) (rest : List Record) (ls : List Byte), AtHead s r rest → s.ctl.station = .run →
    r.payload = .sceneMore ls →
    let cur := s.engine.replica.cursor
    ((cur.valid = false ∨ cur.complete = true ∨ cur.source.toNat ≠ r.source) →
      exec .applySceneMore s = .next { s with line := s.line.popped rest }) ∧
    (cur.valid = true → cur.complete = false → cur.source.toNat = r.source →
      let x := assignLevels s.own (128 - 2 * s.cfg.guard) ls cur s.chans
      exec .applySceneMore s =
        .next
          { s with
            engine := { s.engine with replica := { s.engine.replica with cursor := x.1 } }
            chans := x.2, line := s.line.popped rest })

/-- APPLY_SCENE: the cursor set from the record and judged, the levels assigned in order when it is valid. One level goes to
the channel of the next index, as SET when it is the station's own, not UNUSED and the level at most 128; the next index
advances, and past the last index the cursor is complete and the rest is ignored. -/
def Obligations.SceneApplied : Prop :=
  (∀ (s : State) (r : Record) (rest : List Record) (f l : Byte) (ls : List Byte), AtHead s r rest →
    s.ctl.station = .run → r.payload = .scene f l ls →
    let cur : Cursor :=
      { source := BitVec.ofNat 8 r.source, first := f, last := l, next := f
        valid := decide (f.toNat ≤ l.toNat ∧ l.toNat ≤ 119), complete := false }
    let x := if cur.valid = true then assignLevels s.own (128 - 2 * s.cfg.guard) ls cur s.chans else (cur, s.chans)
    exec .applyScene s =
      .next
        { s with
          engine := { s.engine with replica := { s.engine.replica with cursor := x.1 } }
          chans := x.2, line := s.line.popped rest }) ∧
 ∀ (own a : Nat) (l : Byte) (ls : List Byte) (cur : Cursor) (cs : Four Channel), 1 ≤ own →
    cur.next.toNat ≤ cur.last.toNat → cur.last.toNat ≤ 119 →
    let cs' := Four.tabulate fun n : Num4 =>
      let x := cs.get n
      if (own - 1) * 4 + n.val = cur.next.toNat ∧ l.toNat ≤ 128 ∧ x.state ≠ .unused then
        { x with
          target := min l.toNat a, lastLit := if l.toNat = 0 ∧ 0 < x.target then x.target else x.lastLit
          state := .seeking, owed := true, revised := true }
      else x
    let cur' := { cur with next := cur.next + 1, complete := decide (cur.next = cur.last) }
    assignLevels own a [] cur cs = (cur, cs) ∧
    assignLevels own a (l :: ls) cur cs =
      if cur.next = cur.last then (cur', cs') else assignLevels own a ls cur' cs'

/-- R14: the state check. -/
def Obligations.StateCheckFormula : Prop :=
  (∀ r : Replica,
    (stateCheck r).toNat =
      (((List.range r.claims.length).map fun i =>
          match r.claims[i]? with
          | some c =>
            (i + 1) * ((c.station * 4 + c.channel.val + 1) * (c.start * 256 + c.len + 1) + c.units * 4 + c.cls)
          | none => 0).sum +
        (r.roster.map fun m => m.station * 256 + m.incarnation.toNat + 7).sum + r.shed.val * 4096) % 65536) ∧
  stateCheck Replica.empty = 0 ∧
  (∀ own : Nat, (stateCheck (Replica.founding own)).toNat = (own * 256 + 7) % 65536) ∧
  ∀ (r : Replica) (c : Cursor) (n : Word16), stateCheck { r with cursor := c, stateCount := n } = stateCheck r

/-- What each event makes of a channel record that is not UNUSED: the outcomes of an own PLACE, relief, shedding, an OPEN
report, entry to RUN, and a warm restart or halt; a FAULTED channel stays FAULTED under all of them. At entry to RUN the revised mark
of a channel not made owed stands (log entry 27). An UNUSED channel stays UNUSED (log entry 18). -/
def Obligations.ChannelEvents : Prop :=
  (∀ (c : Channel) (holds : Bool), c.state = .unused →
    (∀ o, c.outcome holds o = c) ∧ c.relief = c ∧ c.shed = c ∧ c.opened holds = c ∧ c.resolve holds = c ∧
    c.restart = { c with owed := false, revised := false }) ∧
  ∀ (c : Channel) (holds : Bool), c.state ≠ .unused →
    (∀ o, c.state = .faulted → c.outcome holds o = { c with owed := holds }) ∧
    (∀ p, c.state ≠ .faulted →
      c.outcome holds (.placed p) =
        if c.revised then { c with state := .seeking, owed := true }
        else { c with state := if p.len = c.target then .lit else .dimmed, owed := false }) ∧
    (∀ o, o = .released ∨ o = .noChange → c.state ≠ .faulted →
      c.outcome holds o =
        if c.revised then { c with state := .seeking, owed := true }
        else { c with state := if c.target = 0 then .dark else .waiting, owed := false }) ∧
    (∀ why, c.state ≠ .faulted → c.outcome holds (.rejected why) = { c with state := .waiting, owed := true }) ∧
    (c.relief = if c.state = .dimmed ∨ c.state = .waiting then { c with state := .seeking, owed := true } else c) ∧
    (c.shed = if c.state = .faulted then { c with owed := false } else { c with state := .waiting, owed := true }) ∧
    (c.opened holds = { c with state := .faulted, owed := holds, revised := false }) ∧
    (c.resolve holds =
      if c.state = .faulted then { c with owed := holds, revised := if holds then true else c.revised }
      else if 0 < c.target ∨ holds = true then { c with state := .seeking, owed := true, revised := true }
      else { c with state := .dark, owed := false }) ∧
    (c.restart =
      if c.state = .faulted then { c with owed := false, revised := false }
      else if 0 < c.target then { c with state := .seeking, owed := true, revised := true }
      else { c with state := .dark, owed := false, revised := false })

/-! ## Outputs, sense monitors and keys -/

/-- An output is active only in RUN, not blanked, its fault hold flag clear, in the slots of its Drive Plan placement; the pin
level by polarity and drive type, and released until the configuration is taken. KEYn is low in the first 16 oscillator cycles of its
own pad's measurement, and released at every other time, in LOADING and HALTED always. Within the read of the configuration memory
CSN is low for 536 cycles of CCK, each 16 oscillator cycles, low first and then high (log entry 34 for the halves); CMOSI carries 03h
and address 0, most significant bit first, one bit in each of the first 24 cycles, and changes between cycles alone. DLN, as the sender
drives it: for each character of the attempt's message a dominant start bit, data bits 7 to 0, a recessive stop bit, in bit times of
10, 4 or 2 µs; released after the last and while no attempt is under way; low in a trailer slot in which this station signals. -/
def Obligations.OutputPins : Prop :=
  (∀ (s : State) (n : Num4),
    let x := s.out.chan.get n
    (s.outActive n = true ↔
      s.ctl.station = .run ∧ s.out.blank = false ∧ x.faultHold = false ∧
        ∃ p, x.plan = some p ∧ p.start ≤ s.timer.slot ∧ s.timer.slot < p.start + p.len) ∧
    (s.out.configured = false → s.outPin n = .released) ∧
    (s.out.configured = true →
      s.outPin n =
        if s.outActive n = true then (if x.polarity = .activeHigh then .high else .low)
        else if x.drive = .openDrain then .released
        else if x.polarity = .activeHigh then .low else .high) ∧
    ∀ cycles,
      s.keyPin n cycles =
        (if s.ctl.station ≠ .loading ∧ s.ctl.station ≠ .halted ∧ s.touch.scan = some n ∧ cycles < 16 then .low
        else .released) ∧
      (s.loader.pins = .released →
        s.csnPin cycles = .released ∧ s.cckPin cycles = .released ∧ s.cmosiPin cycles = .released) ∧
      (s.loader.pins = .atRest ∨ (s.loader.pins = .transaction ∧ 536 * 16 ≤ cycles) →
        s.csnPin cycles = .high ∧ s.cckPin cycles = .low ∧ s.cmosiPin cycles = .low) ∧
      (s.loader.pins = .transaction → cycles < 536 * 16 →
        s.csnPin cycles = .low ∧ (s.cckPin cycles = if cycles % 16 < 8 then .low else .high) ∧
        (cycles < 24 * 16 → s.cmosiPin cycles = if cycles / 16 = 6 ∨ cycles / 16 = 7 then .high else .low) ∧
        s.cmosiPin cycles ≠ .released ∧ ∀ other, other / 16 = cycles / 16 → s.cmosiPin other = s.cmosiPin cycles)) ∧
  (∀ (s : State) (a : Attempt), s.line.attempt = some a →
    (∀ k c, a.message.chars[k]? = some c →
      s.dlnBit (10 * k) = .low ∧ s.dlnBit (10 * k + 9) = .released ∧
        ∀ i < 8, s.dlnBit (10 * k + 1 + i) = if c.getLsbD (7 - i) = true then .released else .low) ∧
    (∀ bit, 10 * a.message.chars.length ≤ bit → s.dlnBit bit = .released) ∧
    ∀ char bit, sendsRecessive a.message.chars char bit = true →
      s.dlnBit (10 * (char - 1) + 8 - bit) = .released) ∧
  (∀ (s : State) (bit : Nat), s.line.attempt = none → s.dlnBit bit = .released) ∧
  (∀ (s : State) (micros : Nat), s.cfg.rateCode ≤ 2 →
    s.dlnPin micros =
      s.dlnBit (micros / if s.cfg.rateCode = 0 then 10 else if s.cfg.rateCode = 1 then 4 else 2)) ∧
  ∀ (s : State) (m : Reception),
    (s.receives m = true →
      s.errorSlotPin m = (if s.signalsError m = true then .low else .released) ∧
        s.holdSlotPin m = if s.signalsHold m = true then .low else .released) ∧
    (s.receives m = false → s.errorSlotPin m = .released ∧ s.holdSlotPin m = .released)

/-- R180: FAULTN is asserted in HALTED, while a channel is FAULTED, and while a key has a pad fault. -/
def Obligations.FaultnAsserted : Prop :=
  ∀ s : State,
    s.faultN = true ↔
      s.ctl.station = .halted ∨ (∃ n, (s.chans.get n).state = .faulted) ∨
        ∃ k, (s.touch.key.get k).state = .faultOverflow ∨ (s.touch.key.get k).state = .faultLow

/-- SENSE_SAMPLE: a driven sample in the middle slot of a placement of length 4 or more sets the low count, and the fourth low
one reports the channel open: FAULTED, its output held, FAULTN asserted. Where no driven sample is taken, nothing happens. -/
def Obligations.SenseSampleTaken : Prop :=
  ∀ (s : State) (n : Num4),
    let x := s.out.chan.get n
    let driven := x.senseEnable = true ∧ s.outActive n = true ∧
      ∃ p, x.plan = some p ∧ 4 ≤ p.len ∧ s.timer.slot = p.start + p.len / 2
    let withChan := fun y : OutChannel => { s with out := { s.out with chan := s.out.chan.set n y } }
    (driven → exec (.senseSample n true) s = .next (withChan { x with lowCount := 0 })) ∧
    (driven → x.lowCount < 3 → exec (.senseSample n false) s = .next (withChan { x with lowCount := x.lowCount + 1 })) ∧
    (driven → 3 ≤ x.lowCount → (s.chans.get n).state ≠ .unused →
      ∃ t, exec (.senseSample n false) s = .next t ∧
        t.out = { s.out with chan := s.out.chan.set n { x with lowCount := 0, faultHold := true } } ∧
        t.chans =
          s.chans.set n
            { s.chans.get n with
              state := .faulted, owed := (claimOf s.engine.replica.claims s.own n).isSome, revised := false } ∧
        t.faultN = true ∧ t.outActive n = false ∧ t.engine = s.engine ∧ t.ctl = s.ctl ∧ t.timer = s.timer) ∧
    (¬ driven → ∀ high, exec (.senseSample n high) s = .next s)

/-- MEASUREMENT_END of the key under measurement: its record takes the value, the round goes on to the next key in a measured
state or ends, and a release from PRESSED alone gives a TOGGLE, to the own channels or to the key's LEVEL slot: its content, or its
follow-on while the slot's own attempt is on the line (LevelOperations). -/
def Obligations.MeasurementTaken : Prop :=
  ∀ (s : State) (k : Num4) (v : BitVec 12), s.ctl.station.timerRuns = true → s.touch.scan = some k →
    let key := s.touch.key.get k
    let x := key.measure v.toNat
    ∃ t, exec (.measurementEnd k v) s = .next t ∧ t.touch.key = s.touch.key.set k x.1 ∧
      (∀ j, t.touch.scan = some j →
        k.val < j.val ∧ (t.touch.key.get j).state.measured = true ∧
        ∀ i, k.val < i.val → i.val < j.val → (t.touch.key.get i).state.measured = false) ∧
      (t.touch.scan = none → ∀ j, k.val < j.val → (t.touch.key.get j).state.measured = false) ∧
      (x.2 = false → t.chans = s.chans ∧ t.line = s.line) ∧
      (x.2 = true → key.state = .pressed ∧ x.1.state = .released ∧
        (key.bound = s.own → t.chans = operateMask s.cfg.placeable .toggle 0 key.mask s.chans ∧ t.line = s.line) ∧
        (key.bound ≠ s.own → t.chans = s.chans ∧
          t.line =
            { s.line with
              slots :=
                { s.line.slots with
                  level :=
                    s.line.slots.level.set k
                      ((s.line.slots.level.get k).give (s.line.busy (.level k))
                        { op := .toggle, value := 0, dest := key.bound, mask := key.mask }) } })) ∧
      t.touch = { s.touch with key := t.touch.key, scan := t.touch.scan } ∧ t.ctl = s.ctl ∧ t.engine = s.engine ∧ t.out = s.out ∧ t.timer = s.timer ∧ t.loader = s.loader ∧ t.cfg = s.cfg

/-- A measurement at its key: the fault runs judged first, then by the key's state calibration, the reading against the
baseline with its debounce runs, tracking, a press after three touches, a release after three no-touches. -/
def Obligations.KeyMeasured : Prop :=
  ∀ (k : Key) (v : Nat), v ≤ 4095 → k.touchRun ≤ 2 → k.noTouchRun ≤ 2 →
    let k' := (k.measure v).1
    let touch := k.baseline + k.threshold ≤ v
    let noTouch := v ≤ k.baseline + k.threshold / 2
    let sound := ¬ (v = 4095 ∧ 3 ≤ k.overflowRun) ∧ ¬ (v < 16 ∧ 3 ≤ k.shortRun)
    let cleared := k'.touchRun = 0 ∧ k'.noTouchRun = 0 ∧ k'.tracking = 0
    let faulted := k'.overflowRun = 0 ∧ k'.shortRun = 0 ∧ k'.hold = 0 ∧ k'.baseline = k.baseline ∧ k'.ramp = k.ramp ∧
      cleared ∧ (k.measure v).2 = false
    k'.last = v ∧ k'.config = k.config ∧
    (v = 4095 → 3 ≤ k.overflowRun → k'.state = .faultOverflow ∧ faulted) ∧
    (v < 16 → 3 ≤ k.shortRun → k'.state = .faultLow ∧ faulted) ∧
    (sound →
      k'.overflowRun = (if v = 4095 then k.overflowRun + 1 else 0) ∧
      k'.shortRun = (if v < 16 then k.shortRun + 1 else 0) ∧
      (k.state = .calibrating → (k.measure v).2 = false ∧ k'.calSum = k.calSum + v ∧ k'.calCount = k.calCount + 1 ∧
        (7 ≤ k.calCount → k'.state = .released ∧ k'.baseline = (k.calSum + v) / 8 ∧ cleared) ∧
        (k.calCount < 7 →
          k'.state = .calibrating ∧ k'.baseline = k.baseline ∧ k'.touchRun = k.touchRun ∧
          k'.noTouchRun = k.noTouchRun ∧ k'.tracking = k.tracking)) ∧
      (k.state = .released → (k.measure v).2 = false ∧ k'.ramp = k.ramp ∧
        (touch → k'.baseline = k.baseline) ∧
        (touch → k.touchRun = 2 → k'.state = .pressed ∧ k'.hold = 0 ∧ cleared) ∧
        (touch → k.touchRun < 2 → k'.touchRun = k.touchRun + 1 ∧ k'.noTouchRun = 0) ∧
        (¬ touch → noTouch →
          k'.touchRun = 0 ∧ k'.noTouchRun = if k.noTouchRun = 2 then 0 else k.noTouchRun + 1) ∧
        (¬ touch → ¬ noTouch → k'.touchRun = k.touchRun ∧ k'.noTouchRun = k.noTouchRun) ∧
        (¬ (touch ∧ k.touchRun = 2) →
          k'.state = .released ∧ k'.hold = k.hold ∧ k'.tracking = if k.tracking < 15 then k.tracking + 1 else 0) ∧
        (¬ touch → k'.baseline =
          if k.tracking < 15 then k.baseline
          else if k.baseline < v then k.baseline + 1 else if v < k.baseline then k.baseline - 1 else k.baseline)) ∧
      (k.state = .pressed ∨ k.state = .holding → k'.baseline = k.baseline ∧
        (¬ touch → noTouch → k.noTouchRun = 2 →
          k'.state = .released ∧ k'.hold = 0 ∧ cleared ∧ (k.measure v).2 = decide (k.state = .pressed) ∧
          (k.state = .pressed → k'.ramp = k.ramp) ∧ (k.state = .holding → k'.ramp ≠ k.ramp)) ∧
        (touch ∨ ¬ noTouch ∨ k.noTouchRun < 2 →
          k'.state = k.state ∧ k'.hold = k.hold ∧ k'.tracking = k.tracking ∧ k'.ramp = k.ramp ∧ (k.measure v).2 = false) ∧
        (touch → k'.touchRun = 0 ∧ k'.noTouchRun = 0) ∧
        (¬ touch → noTouch → k.noTouchRun < 2 → k'.touchRun = 0 ∧ k'.noTouchRun = k.noTouchRun + 1) ∧
        (¬ touch → ¬ noTouch → k'.touchRun = k.touchRun ∧ k'.noTouchRun = k.noTouchRun)))

/-! ## Invariants and the message codec -/

/-- R9: every step keeps the law of the Slot Map. -/
def Obligations.SlotMapLawKept : Prop := ∀ s t : State, SlotMapLaw s → step s = .next t → SlotMapLaw t

/-- R5, R37, R107: every step keeps a station outside RUN empty. -/
def Obligations.EmptyOutsideRunKept : Prop := ∀ s t : State, EmptyOutsideRun s → step s = .next t → EmptyOutsideRun t

/-- R7, R11, R15, R119, R121: every step keeps the laws of the Roster and of the Claim List; and with them, in RUN, the held
check that of the replica, the own incarnation that of the own Roster entry, and one silence counter for each other station of the
Roster and no other. -/
def Obligations.MembershipLawKept : Prop :=
  (∀ s t : State, MembershipLaw s → step s = .next t → MembershipLaw t) ∧
  ∀ s t : State, MembershipLaw s → RunLaw s → step s = .next t → RunLaw t

/-- Every step keeps the inbound queue at 8 records at most, the attempt counts at 15, the PLACE cooldown at 8, and the Pending
Change Queue at distances 1..4, one entry per (channel, e), and so at 16 entries. -/
def Obligations.QueuesKept : Prop :=
  (∀ s t : State, QueueBounded s → step s = .next t → QueueBounded t) ∧
  (∀ s t : State, AttemptsBounded s → step s = .next t → AttemptsBounded t) ∧
  (∀ s t : State, EmptyOutsideRun s → PendingLaw s → step s = .next t → PendingLaw t) ∧
  ∀ s : State, PendingLaw s → s.ctl.station = .run → s.out.pending.length ≤ 16

/-- R130, R134: every step keeps targets within 0..A, last-lit within 1..A, and UNUSED channels at target 0 and not owed. After
COLD_RESET this rests on the model's own values of a channel record (log entry 12). R151, R153: every step keeps an UNUSED channel
without a Drive Plan placement and without a Pending Change Queue entry, so that its output stays inactive (log entry 31 for a claim
that a dump holds for it). -/
def Obligations.ChannelLawKept : Prop :=
  (∀ s t : State, ChannelLaw s → step s = .next t → ChannelLaw t) ∧
  (∀ s t : State, EmptyOutsideRun s → UnusedUndriven s → step s = .next t → UnusedUndriven t) ∧
  ∀ (s : State) (n : Num4), UnusedUndriven s → (s.chans.get n).state = .unused → s.outActive n = false

/-- R154: every step keeps the fault hold flag of a FAULTED channel set, so that its output is inactive. -/
def Obligations.FaultHeldKept : Prop :=
  (∀ s t : State, FaultHeld s → step s = .next t → FaultHeld t) ∧
  ∀ (s : State) (n : Num4), FaultHeld s → (s.chans.get n).state = .faulted → s.outActive n = false

/-- R160, R164, R168: every step keeps the key records in range. -/
def Obligations.KeysInRangeKept : Prop := ∀ s t : State, KeysInRange s → step s = .next t → KeysInRange t

/-- R38, R57, R128: every step keeps a station that does not listen free of an attempt, and a restart waiting only while an
attempt is under way; and HALTED is left only by a cold reset: every other command leaves a halted node as it is. -/
def Obligations.HaltedFrozen : Prop :=
  (∀ s t : State, AttemptLaw s → step s = .next t → AttemptLaw t) ∧
  ∀ (s : State) (c : Instr), AttemptLaw s → s.ctl.station = .halted → (∀ cause, c ≠ .coldReset cause) →
    exec c s = .next s

/-- R178: no command but a cold reset and the end of LOADING changes a configuration value. -/
def Obligations.ConfigurationHeld : Prop :=
  ∀ (s t : State) (c : Instr), (∀ cause, c ≠ .coldReset cause) →
    (∀ memory, c = .configurationReadComplete memory → s.ctl.station ≠ .loading) → exec c s = .next t →
    SameConfiguration s t

/-- The characters of a message, and which characters are one. Header, payload, check in order, the check the sum of value times
position; each payload laid out as 11.3 has it. Reading the characters of a message that has no form error gives the message back; and
whatever reads as a message has no form error and has exactly those characters, so that characters with a bit beyond a field, another
length or another check read as none. A dominant stop bit is a form error. What each kind asks of its fields and destination. -/
def Obligations.MessageRoundTrip : Prop :=
  (∀ m : Message, m.formOk = true → readMessage m.chars = some m) ∧
  (∀ (cs : List Byte) (m : Message), readMessage cs = some m → m.formOk = true ∧ m.chars = cs) ∧
  (∀ m : Reception,
    ((∃ c ∈ m.chars, c.stopRecessive = false) → m.message = none) ∧
    ((∀ c ∈ m.chars, c.stopRecessive = true) → m.message = readMessage (m.chars.map (·.value)))) ∧
  (∀ m : Message,
    let body :=
      [BitVec.ofNat 8 (m.priority.val * 64 + m.payload.kind * 2 + if m.lock = true then 1 else 0),
        BitVec.ofNat 8 m.source, BitVec.ofNat 8 m.dest, BitVec.ofNat 8 m.payload.bytes.length] ++ m.payload.bytes
    let check := ((List.range body.length).map fun k => (k + 1) * (body.getD k 0).toNat).sum % 65536
    m.chars = body ++ [BitVec.ofNat 8 (check / 256), BitVec.ofNat 8 check]) ∧
  (let hi := fun w : Word16 => BitVec.ofNat 8 (w.toNat / 256)
  let lo := fun w : Word16 => BitVec.ofNat 8 w.toNat
  let pairs := fun ps : List Pair => ps.flatMap fun p => [p.station, p.incarnation]
  let entries := fun es : List PlaceEntry =>
    es.flatMap fun p => [BitVec.ofNat 8 (4 * p.channel.val + p.cls.val), p.units, p.start, p.len]
  let what := fun w : What => if w = .node then (0 : Byte) else 1
  ∀ p : Payload,
    p.bytes =
      match p with
      | .join e d => [e, hi d, lo d]
      | .found n d => [n, hi d, lo d]
      | .dumpOpen f =>
        [f.period, f.lastE, BitVec.ofNat 8 f.shed.val, hi f.stateCount, lo f.stateCount, hi f.digest, lo f.digest,
          f.rosterCount, f.claimCount]
      | .dumpPart (.roster es) => 1 :: pairs es
      | .dumpPart (.cursor c) =>
        [2, c.source, c.first, c.last, c.next,
          BitVec.ofNat 8 ((if c.valid = true then 1 else 0) + if c.complete = true then 2 else 0)]
      | .dumpPart (.claims st es) => BitVec.ofNat 8 (8 * st + 3) :: entries es
      | .evict e ps => e :: pairs ps
      | .place e es => e :: entries es
      | .shed e l => [e, BitVec.ofNat 8 l.val]
      | .presence n k c i => [n, hi k, lo k, hi c, lo c, i]
      | .level op mask v =>
        [BitVec.ofNat 8
            (16 * (match op with | .set => 0 | .toggle => 1 | .stepUp => 2 | .stepDown => 3) + mask.toNat), v]
      | .scene f l ls => f :: l :: ls
      | .sceneMore ls => ls
      | .query w => [what w]
      | .report w b => what w :: b) ∧
  ∀ m : Message,
    let claim := fun p : PlaceEntry => p.cls.val ≤ 2 ∧ 1 ≤ p.units.toNat ∧ p.units.toNat ≤ 63
    m.formOk = true ↔
      1 ≤ m.source ∧ m.source ≤ 30 ∧
        match m.payload with
        | .join _ _ => m.dest = 0
        | .found _ _ => m.dest = 0
        | .dumpOpen _ => m.dest = 0
        | .dumpPart (.roster es) => m.dest = 0 ∧ 1 ≤ es.length ∧ es.length ≤ 8
        | .dumpPart (.cursor _) => m.dest = 0
        | .dumpPart (.claims st es) =>
          m.dest = 0 ∧ 1 ≤ st ∧ st ≤ 30 ∧ 1 ≤ es.length ∧ es.length ≤ 4 ∧ ∀ p ∈ es, claim p
        | .evict _ ps => m.dest = 0 ∧ 1 ≤ ps.length ∧ ps.length ≤ 8
        | .place _ es => m.dest = 0 ∧ 1 ≤ es.length ∧ es.length ≤ 4 ∧ ∀ p ∈ es, p.len = 0 ∨ claim p
        | .shed _ _ => m.dest = 0
        | .presence _ _ _ _ => m.dest = 0
        | .level op _ v => m.dest ≤ 30 ∧ v.toNat ≤ 128 ∧ (op = .stepUp ∨ op = .stepDown → 1 ≤ v.toNat)
        | .scene _ _ ls => m.dest = 0 ∧ ls.length ≤ 16
        | .sceneMore ls => m.dest = 0 ∧ 1 ≤ ls.length ∧ ls.length ≤ 16
        | .query _ => m.dest ≤ 30
        | .report .node b => 1 ≤ m.dest ∧ m.dest ≤ 30 ∧ b.length = 15
        | .report .channels b => 1 ≤ m.dest ∧ m.dest ≤ 30 ∧ b.length = 16

end
end

