-- ==== Sys2Proof/Laws/Word.lean ====
section
/-! SUPPORT. Laws of the group of four: what `get` reads after each way of building one. -/

namespace Sys2Proof

@[simp] theorem Four.get_set {α : Type} (f : Four α) (i j : Num4) (a : α) :
    (f.set i a).get j = if j = i then a else f.get j := by
  match i, j with
  | 0, 0 | 0, 1 | 0, 2 | 0, 3 => rfl
  | 1, 0 | 1, 1 | 1, 2 | 1, 3 => rfl
  | 2, 0 | 2, 1 | 2, 2 | 2, 3 => rfl
  | 3, 0 | 3, 1 | 3, 2 | 3, 3 => rfl

@[simp] theorem Four.get_map {α β : Type} (g : α → β) (f : Four α) (i : Num4) : (f.map g).get i = g (f.get i) := by
  match i with
  | 0 | 1 | 2 | 3 => rfl

@[simp] theorem Four.get_tabulate {α : Type} (g : Num4 → α) (i : Num4) : (Four.tabulate g).get i = g i := by
  match i with
  | 0 | 1 | 2 | 3 => rfl

@[simp] theorem Four.get_replicate {α : Type} (a : α) (i : Num4) : (Four.replicate a).get i = a := by
  match i with
  | 0 | 1 | 2 | 3 => rfl

/-- Two groups of four that read alike are equal. -/
theorem Four.ext_get {α : Type} {f g : Four α} (h : ∀ i, f.get i = g.get i) : f = g := by
  obtain ⟨a, b, c, d⟩ := f
  have h0 := h 0
  have h1 := h 1
  have h2 := h 2
  have h3 := h 3
  simp only [Four.get] at h0 h1 h2 h3
  subst h0 h1 h2 h3
  rfl

@[simp] theorem Four.set_get_self {α : Type} (f : Four α) (i : Num4) : f.set i (f.get i) = f := by
  match i with
  | 0 | 1 | 2 | 3 => rfl

@[simp] theorem Four.set_set {α : Type} (f : Four α) (i : Num4) (a b : α) : (f.set i a).set i b = f.set i b := by
  match i with
  | 0 | 1 | 2 | 3 => rfl

theorem Four.any_iff {α : Type} (p : α → Bool) (f : Four α) : f.any p = true ↔ ∃ i, p (f.get i) = true := by
  constructor
  · intro h
    simp only [Four.any, Bool.or_eq_true] at h
    rcases h with ((h | h) | h) | h
    · exact ⟨0, h⟩
    · exact ⟨1, h⟩
    · exact ⟨2, h⟩
    · exact ⟨3, h⟩
  · rintro ⟨i, h⟩
    match i, h with
    | 0, h => simp [Four.any, show p f.c0 = true from h]
    | 1, h => simp [Four.any, show p f.c1 = true from h]
    | 2, h => simp [Four.any, show p f.c2 = true from h]
    | 3, h => simp [Four.any, show p f.c3 = true from h]

@[simp] theorem mem_allFour (n : Num4) : n ∈ allFour := by
  match n with
  | 0 | 1 | 2 | 3 => decide

end Sys2Proof
end

