-- ==== Sys2Proof/Laws/Channels.lean ====
section
/-! SUPPORT. What each event keeps of a channel record: its configuration, and the law of R130 and R134. -/

namespace Sys2Proof.Machine

/-- R130, R131, R134: one channel's share of `ChannelLaw`. -/
def Channel.Ok (a : Nat) (c : Channel) : Prop :=
  c.target ≤ a ∧ 1 ≤ c.lastLit ∧ c.lastLit ≤ a ∧ (c.state = .unused ↔ c.units = 0) ∧
    (c.state = .unused → c.target = 0 ∧ c.owed = false)

theorem channelLaw_iff (s : State) : ChannelLaw s ↔ ∀ n, (s.chans.get n).Ok s.cfg.placeable := Iff.rfl

/-- R134: a target stays within 0..A. -/
theorem newTarget_le {a v t lit : Nat} (op : LevelOp) (ht : t ≤ a) (hl : lit ≤ a) : newTarget a op v t lit ≤ a := by
  cases op <;> simp only [newTarget]
  · exact Nat.min_le_right _ _
  · split <;> omega
  · exact Nat.min_le_left _ _
  · omega

/-- R133: last-lit is never 0. -/
theorem newLastLit_pos {a v t lit : Nat} (op : LevelOp) (hl : 1 ≤ lit) : 1 ≤ newLastLit a op v t lit := by
  cases op <;> simp only [newLastLit] <;> (try split) <;> omega

theorem newLastLit_le {a v t lit : Nat} (op : LevelOp) (ht : t ≤ a) (hl : lit ≤ a) : newLastLit a op v t lit ≤ a := by
  cases op <;> simp only [newLastLit] <;> (try split) <;> omega

theorem operate_ok {a v : Nat} {c : Channel} (op : LevelOp) (h : c.Ok a) : (c.operate a op v).Ok a := by
  unfold Channel.operate
  by_cases hu : c.state = .unused
  · rw [if_pos hu]
    exact h
  · rw [if_neg hu]
    obtain ⟨h1, h2, h3, h4, _⟩ := h
    refine ⟨newTarget_le op h1 h3, newLastLit_pos op h2, newLastLit_le op h1 h3, ?_, fun hx => (by cases hx)⟩
    exact ⟨fun hx => (by cases hx), fun hz => absurd (h4.mpr hz) hu⟩

/-- An update of state, owed flag and revised mark alone keeps the law when it neither makes nor ends UNUSED. -/
theorem Channel.Ok.mark {a : Nat} {c : Channel} (h : c.Ok a) (st : ChannelState) (owed revised : Bool)
    (hc : c.state ≠ .unused) (hs : st ≠ .unused) :
    ({ c with state := st, owed := owed, revised := revised } : Channel).Ok a :=
  ⟨h.1, h.2.1, h.2.2.1, ⟨fun hx => absurd hx hs, fun hz => absurd (h.2.2.2.1.mpr hz) hc⟩, fun hx => absurd hx hs⟩

theorem outcome_ok {a : Nat} {c : Channel} (holds : Bool) (o : PlaceOutcome) (h : c.Ok a) : (c.outcome holds o).Ok a := by
  unfold Channel.outcome
  split
  · exact h
  · rename_i hf
    have := h.mark c.state holds c.revised (by simp [hf]) (by simp [hf])
    exact this
  · rename_i hu _
    have mk : ∀ st owed, st ≠ ChannelState.unused → ({ c with state := st, owed := owed } : Channel).Ok a :=
      fun st owed hs => h.mark st owed c.revised hu hs
    split
    · exact mk _ _ (by simp)
    · split
      · exact mk _ _ (by simp)
      · exact mk _ _ (by split <;> simp)
    · split
      · exact mk _ _ (by simp)
      · exact mk _ _ (by split <;> simp)
    · split
      · exact mk _ _ (by simp)
      · exact mk _ _ (by split <;> simp)

theorem relief_ok {a : Nat} {c : Channel} (h : c.Ok a) : c.relief.Ok a := by
  unfold Channel.relief
  split
  · rename_i hs
    exact h.mark .seeking true c.revised (by simp [hs]) (by simp)
  · rename_i hs
    exact h.mark .seeking true c.revised (by simp [hs]) (by simp)
  all_goals exact h

theorem shed_ok {a : Nat} {c : Channel} (h : c.Ok a) : c.shed.Ok a := by
  unfold Channel.shed
  split
  · exact h
  · rename_i hf
    exact h.mark c.state false c.revised (by simp [hf]) (by simp [hf])
  · rename_i hu _
    exact h.mark .waiting true c.revised hu (by simp)

theorem opened_ok {a : Nat} {c : Channel} (holds : Bool) (h : c.Ok a) : (c.opened holds).Ok a := by
  unfold Channel.opened
  split
  · exact h
  · rename_i hu
    exact h.mark .faulted holds false hu (by simp)

theorem resolve_ok {a : Nat} {c : Channel} (holds : Bool) (h : c.Ok a) : (c.resolve holds).Ok a := by
  unfold Channel.resolve
  split
  · exact h
  · rename_i hf
    exact h.mark c.state holds _ (by simp [hf]) (by simp [hf])
  · rename_i hu _
    split
    · exact h.mark .seeking true true hu (by simp)
    · exact h.mark .dark false c.revised hu (by simp)

theorem restart_ok {a : Nat} {c : Channel} (h : c.Ok a) : c.restart.Ok a := by
  unfold Channel.restart
  split
  · rename_i hu
    exact ⟨h.1, h.2.1, h.2.2.1, h.2.2.2.1, fun _ => ⟨(h.2.2.2.2 hu).1, rfl⟩⟩
  · rename_i hf
    exact h.mark c.state false false (by simp [hf]) (by simp [hf])
  · rename_i hu _
    split
    · exact h.mark .seeking true true hu (by simp)
    · exact h.mark .dark false false hu (by simp)

/-- R94, R142: a channel that a build takes and hands back is owed before it, so it is not UNUSED. -/
theorem handBack_ok {a : Nat} {c : Channel} (why : NoContribution) (ho : c.owed = true) (h : c.Ok a) :
    (c.taken.handBack why).Ok a := by
  have hu : c.state ≠ .unused := by
    intro hx
    have := (h.2.2.2.2 hx).2
    rw [ho] at this
    cases this
  have mk : ∀ st, st ≠ ChannelState.unused →
      ({ c with state := st, owed := false, revised := false } : Channel).Ok a := fun st hs => h.mark st false false hu hs
  cases why with
  | stands len => exact mk _ (by by_cases hl : len = c.taken.target <;> simp [hl])
  | darkAndEmpty => exact mk _ (by by_cases hl : c.taken.state = .faulted <;> simp [hl])
  | noRoom => exact mk _ (by simp)

theorem fromImage_ok {a units cls level : Nat} (ha : 1 ≤ a) : (Channel.fromImage a units cls level).Ok a := by
  unfold Channel.fromImage
  refine ⟨?_, ?_, ?_, ?_, ?_⟩
  · dsimp only; split <;> omega
  · dsimp only; split <;> omega
  · dsimp only; split <;> omega
  · by_cases hu : units = 0
    · simp [hu]
    · simp only [hu, if_false, iff_false]
      split <;> simp
  · by_cases hu : units = 0
    · simp [hu]
    · simp only [hu, if_false]
      intro hx
      split at hx <;> cases hx

/-- The configuration items of a channel stand under every event (R178). -/
theorem channel_config (c : Channel) (a v : Nat) (op : LevelOp) (holds : Bool) (o : PlaceOutcome)
    (why : NoContribution) :
    (c.operate a op v).config = c.config ∧ (c.outcome holds o).config = c.config ∧ c.relief.config = c.config ∧
      c.shed.config = c.config ∧ (c.opened holds).config = c.config ∧ (c.resolve holds).config = c.config ∧
      c.restart.config = c.config ∧ (c.taken.handBack why).config = c.config := by
  refine ⟨?_, ?_, ?_, ?_, ?_, ?_, ?_, ?_⟩
  · unfold Channel.operate; split <;> rfl
  · unfold Channel.outcome; repeat' (first | rfl | split)
  · unfold Channel.relief; split <;> rfl
  · unfold Channel.shed; split <;> rfl
  · unfold Channel.opened; split <;> rfl
  · unfold Channel.resolve; repeat' (first | rfl | split)
  · unfold Channel.restart; repeat' (first | rfl | split)
  · cases why <;> rfl

/-- A mask's operation, channel by channel (R132). -/
theorem operateMask_get (a v : Nat) (op : LevelOp) (mask : BitVec 4) (cs : Four Channel) (n : Num4) :
    (operateMask a op v mask cs).get n = if mask.getLsbD n.val then (cs.get n).operate a op v else cs.get n := by
  simp [operateMask]

theorem operateMask_ok {a v : Nat} {cs : Four Channel} (op : LevelOp) (mask : BitVec 4) (h : ∀ n, (cs.get n).Ok a)
    (n : Num4) : ((operateMask a op v mask cs).get n).Ok a := by
  rw [operateMask_get]
  split
  · exact operate_ok op (h n)
  · exact h n

end Sys2Proof.Machine
end

