-- ==== Sys2Proof/Laws/Keys.lean ====
section
/-! SUPPORT. What a period start makes of a key record, where a scan round begins, and what a measurement and a period start keep
of the record: its configuration, and the ranges of R160. -/

namespace Sys2Proof.Machine

/-- The configuration items of a key stand under a measurement and a period start (R178). -/
theorem measure_config (k : Key) (v : Nat) : (k.measure v).1.config = k.config := by
  have track : ∀ (r : Reading) (v : Nat) (k : Key), (Key.track r v k).config = k.config := by
    intro r v k
    unfold Key.track
    split <;> rfl
  have held : ∀ (k : Key), (k.measureHeld v).1.config = k.config := by
    intro k
    unfold Key.measureHeld
    repeat' (first | rfl | split)
  unfold Key.measure
  dsimp only
  split
  · rfl
  · rfl
  · split
    · unfold Key.calibrate; dsimp only; split <;> rfl
    · unfold Key.measureReleased
      split
      · split
        · rfl
        · rw [track]; rfl
      · rw [track]; rfl
      · rw [track]; rfl
    · rw [held]; rfl
    · split
      · exact held _
      · exact held _
    all_goals rfl

theorem atPeriodStart_config (h : Nat) (k : Key) : (k.atPeriodStart h).1.config = k.config := by
  unfold Key.atPeriodStart
  repeat' (first | rfl | split)

/-- The tracking count and the baseline stay in range under a measurement in RELEASED (R166). -/
theorem track_law {r : Reading} {v : Nat} {k : Key} (hv : v ≤ 4095) (h : KeyLaw k) : KeyLaw (Key.track r v k) := by
  obtain ⟨h1, h2, h3, h4, h5, h6, h7, h8, h9, h10, h11, h12⟩ := h
  unfold Key.track
  split
  · refine ⟨?_, h2, h3, h4, h5, h6, h7, h8, h9, by simp, h11, h12⟩
    dsimp only
    split
    · exact h1
    · split
      · omega
      · split <;> omega
  · exact ⟨h1, h2, h3, h4, h5, h6, h7, h8, h9, by dsimp only; omega, h11, h12⟩

theorem calibrate_law {k : Key} {v : Nat} (hv : v ≤ 4095) (hs : k.state = .calibrating) (h : KeyLaw k) :
    KeyLaw (k.calibrate v) := by
  obtain ⟨h1, h2, h3, h4, h5, h6, h7, h8, h9, h10, h11, h12⟩ := h
  have h7' := h5 hs
  have hh : k.held = false := by simp [Key.held, hs]
  unfold Key.calibrate
  dsimp only
  split
  · refine ⟨?_, h2, by dsimp only; omega, by dsimp only; omega, fun hx => (by cases hx), by simp, by simp, h8, h9, by simp,
      h11, fun _ => h12 hh⟩
    dsimp only
    omega
  · exact ⟨h1, h2, by dsimp only; omega, by dsimp only; omega, fun _ => by dsimp only; omega, h6, h7, h8, h9, h10, h11,
      fun _ => h12 hh⟩

/-- A measurement keeps the ranges of a key record. -/
theorem measure_law {k : Key} {v : Nat} (hv : v ≤ 4095) (h : KeyLaw k) : KeyLaw (k.measure v).1 := by
  obtain ⟨h1, h2, h3, h4, h5, h6, h7, h8, h9, h10, h11, h12⟩ := h
  have fault : ∀ st, st = KeyState.faultOverflow ∨ st = KeyState.faultLow → KeyLaw (Key.fault { k with last := v } st) := by
    intro st hst
    refine ⟨h1, hv, h3, h4, fun hx => ?_, by simp [Key.fault], by simp [Key.fault], by simp [Key.fault],
      by simp [Key.fault], by simp [Key.fault], by simp [Key.fault], fun _ => rfl⟩
    simp only [Key.fault] at hx
    rcases hst with rfl | rfl <;> cases hx
  unfold Key.measure
  dsimp only
  split
  · exact fault _ (Or.inl rfl)
  · exact fault _ (Or.inr rfl)
  · rename_i o sh hj
    have hr : o ≤ 3 ∧ sh ≤ 3 := by
      unfold Key.judgeFault at hj
      dsimp only at hj
      repeat' split at hj
      all_goals cases hj
      all_goals constructor <;> omega
    have hk : KeyLaw { k with last := v, overflowRun := o, shortRun := sh } :=
      ⟨h1, hv, h3, h4, h5, h6, h7, hr.1, hr.2, h10, h11, h12⟩
    generalize hq : ({ k with last := v, overflowRun := o, shortRun := sh } : Key) = q at hk
    have hst : k.state = q.state := by rw [← hq]
    have heldLaw : ∀ x : Key, KeyLaw x → x.held = true → KeyLaw (x.measureHeld v).1 := by
      intro x hx hh
      obtain ⟨g1, g2, g3, g4, g5, g6, g7, g8, g9, g10, g11, g12⟩ := hx
      have hns : x.state ≠ .calibrating := by
        intro hc
        simp [Key.held, hc] at hh
      unfold Key.measureHeld
      split
      · exact ⟨g1, g2, g3, g4, fun hc => absurd hc hns, by simp, by simp, g8, g9, g10, g11, g12⟩
      · split
        · exact ⟨g1, g2, g3, g4, fun hc => (by cases hc), by simp [Key.release], by simp [Key.release], g8, g9,
            by simp [Key.release], by simp [Key.release], fun _ => rfl⟩
        · exact ⟨g1, g2, g3, g4, fun hc => absurd hc hns, by simp, by dsimp only; omega, g8, g9, g10, g11, g12⟩
      · exact ⟨g1, g2, g3, g4, g5, g6, g7, g8, g9, g10, g11, g12⟩
    split
    · rename_i hs
      exact calibrate_law hv (hst ▸ hs) hk
    · unfold Key.measureReleased
      obtain ⟨g1, g2, g3, g4, g5, g6, g7, g8, g9, g10, g11, g12⟩ := hk
      rename_i hs
      have hns : q.state ≠ .calibrating := by rw [← hst, hs]; simp
      have hhq : q.held = false := by simp [Key.held, ← hst, hs]
      split
      · split
        · exact ⟨g1, g2, g3, g4, fun hc => (by cases hc), by simp [Key.press], by simp [Key.press], g8, g9,
            by simp [Key.press], by simp [Key.press], fun _ => rfl⟩
        · exact track_law hv
            ⟨g1, g2, g3, g4, fun hc => absurd hc hns, by dsimp only; omega, by simp, g8, g9, g10, g11, fun _ => g12 hhq⟩
      · refine track_law hv
          ⟨g1, g2, g3, g4, fun hc => absurd hc hns, by simp, ?_, g8, g9, g10, g11, fun _ => g12 hhq⟩
        dsimp only
        split <;> omega
      · exact track_law hv ⟨g1, g2, g3, g4, g5, g6, g7, g8, g9, g10, g11, g12⟩
    · rename_i hs
      exact heldLaw q hk (by simp [Key.held, ← hst, hs])
    · rename_i hs
      have hl := heldLaw q hk (by simp [Key.held, ← hst, hs])
      split
      · exact hl
      · exact hl
    all_goals exact hk

/-- A period start keeps the ranges of a key record. -/
theorem atPeriodStart_law {h : Nat} {k : Key} (hk : KeyLaw k) : KeyLaw (k.atPeriodStart h).1 := by
  obtain ⟨h1, h2, h3, h4, h5, h6, h7, h8, h9, h10, h11, h12⟩ := hk
  unfold Key.atPeriodStart
  by_cases hl : k.reachesLimit = true
  · rw [if_pos hl]
    exact ⟨h1, h2, by simp [Key.forceRelease], by simp [Key.forceRelease], fun _ => by simp [Key.forceRelease],
      by simp [Key.forceRelease], by simp [Key.forceRelease], h8, h9, by simp [Key.forceRelease],
      by simp [Key.forceRelease], fun _ => rfl⟩
  · rw [if_neg hl]
    have below : k.held = true → k.hold + 1 ≤ 4096 := by
      intro hh
      simp only [Key.reachesLimit, hh, Bool.true_and, decide_eq_true_eq, not_le] at hl
      exact Nat.le_of_lt hl
    by_cases hr : k.reachesHold h = true
    · rw [if_pos hr]
      simp only [Key.reachesHold, Bool.and_eq_true, beq_iff_eq] at hr
      have hh : k.held = true := by simp [Key.held, hr.1]
      exact ⟨h1, h2, h3, h4, fun hc => (by cases hc), h6, h7, h8, h9, h10, below hh, fun hc => by simp [Key.held] at hc⟩
    · rw [if_neg hr]
      by_cases hs : k.reachesStep h = true
      · rw [if_pos hs]
        simp only [Key.reachesStep, Bool.and_eq_true, beq_iff_eq] at hs
        have hh : k.held = true := by simp [Key.held, hs.1.1.1]
        exact ⟨h1, h2, h3, h4, h5, h6, h7, h8, h9, h10, below hh, fun hc => by
          have : k.held = false := hc
          rw [hh] at this
          cases this⟩
      · rw [if_neg hs]
        split
        · rename_i hh
          exact ⟨h1, h2, h3, h4, h5, h6, h7, h8, h9, h10, below hh, fun hc => by
            have : k.held = false := hc
            rw [hh] at this
            cases this⟩
        · exact ⟨h1, h2, h3, h4, h5, h6, h7, h8, h9, h10, h11, h12⟩

/-- What a period start makes of a key record, and the step it gives. -/
theorem atPeriodStart_spec (h : Nat) (k : Key) :
    (¬ (k.state = .pressed ∨ k.state = .holding) → k.atPeriodStart h = (k, none)) ∧
      (k.state = .pressed ∨ k.state = .holding → 4096 ≤ k.hold + 1 → k.atPeriodStart h = (k.forceRelease, none)) ∧
      (k.state = .pressed ∨ k.state = .holding → k.hold + 1 < 4096 →
        k.atPeriodStart h =
          ({ k with
             hold := k.hold + 1, state := if k.state = .pressed ∧ k.hold + 1 = h then .holding else k.state },
           if (k.state = .pressed ∧ k.hold + 1 = h) ∨
               (k.state = .holding ∧ h < k.hold + 1 ∧ (k.hold + 1 - h) % 4 = 0) then some k.ramp.step
           else none)) := by
  refine ⟨fun hn => ?_, fun hh hl => ?_, fun hh hl => ?_⟩
  · simp only [not_or] at hn
    simp [Key.atPeriodStart, Key.reachesLimit, Key.reachesHold, Key.reachesStep, Key.held, hn.1, hn.2]
  · have : k.held = true := by simpa [Key.held] using hh
    simp [Key.atPeriodStart, Key.reachesLimit, Config.holdTimerLimit, this, hl]
  · have hd : k.held = true := by simpa [Key.held] using hh
    have hnl : k.reachesLimit = false := by simp [Key.reachesLimit, Config.holdTimerLimit]; intro; omega
    rcases hh with hs | hs
    · by_cases hr : k.hold + 1 = h
      · simp [Key.atPeriodStart, hnl, Key.reachesHold, hs, hr]
      · simp [Key.atPeriodStart, hnl, Key.reachesHold, Key.reachesStep, hs, hr, hd]
    · by_cases hr : h < k.hold + 1 ∧ (k.hold + 1 - h) % 4 = 0
      · simp [Key.atPeriodStart, hnl, Key.reachesHold, Key.reachesStep, Config.holdTimerLimit, hs, hr, hl]
      · have hr' : k.reachesStep h = false := by
          cases hq : k.reachesStep h with
          | false => rfl
          | true =>
            simp only [Key.reachesStep, Bool.and_eq_true, decide_eq_true_eq, beq_iff_eq] at hq
            exact absurd ⟨hq.1.1.2, hq.1.2⟩ hr
        simp [Key.atPeriodStart, hnl, Key.reachesHold, hr', hs, hd]
        exact fun h1 h2 => hr ⟨by omega, h2⟩

/-- The operation of a step in the words of R168. -/
theorem rampStep_eq (r : Ramp) : r.step = if r = .up then LevelOp.stepUp else LevelOp.stepDown := by
  cases r <;> rfl

/-- When a period start gives a step, in the words of R168 and R170. -/
theorem atPeriodStart_step (h : Nat) (x : Key) :
    (x.atPeriodStart h).2 =
      if x.hold + 1 < 4096 ∧
          ((x.state = .pressed ∧ x.hold + 1 = h) ∨
            (x.state = .holding ∧ h < x.hold + 1 ∧ (x.hold + 1 - h) % 4 = 0)) then some x.ramp.step
      else none := by
  obtain ⟨h1, h2, h3⟩ := atPeriodStart_spec h x
  by_cases hp : x.state = .pressed ∨ x.state = .holding
  · by_cases hl : x.hold + 1 < 4096
    · rw [h3 hp hl]
      simp [hl]
    · rw [h2 hp (by omega)]
      simp [hl]
  · rw [h1 hp]
    simp only [not_or] at hp
    simp [hp.1, hp.2]

theorem atPeriodStart_bound (h : Nat) (k : Key) : (k.atPeriodStart h).1.bound = k.bound :=
  congrArg (fun c => c.2.1) (atPeriodStart_config h k)

theorem atPeriodStart_mask (h : Nat) (k : Key) : (k.atPeriodStart h).1.mask = k.mask :=
  congrArg (fun c => c.2.2.1) (atPeriodStart_config h k)

/-- The first key of the four in a measured state (R161). -/
theorem nextKey_allFour (t : TouchUnit) :
    (∀ k, t.nextKey allFour = some k →
      (t.key.get k).state.measured = true ∧ ∀ j, j.val < k.val → (t.key.get j).state.measured = false) ∧
      (t.nextKey allFour = none → ∀ k, (t.key.get k).state.measured = false) := by
  unfold TouchUnit.nextKey
  refine ⟨fun k h => ⟨List.find?_some (p := fun k => (t.key.get k).state.measured) h, fun j hj => ?_⟩, fun h k => ?_⟩
  · obtain ⟨_, as, bs, hab, hno⟩ := List.find?_eq_some_iff_append.mp h
    have hs : allFour.Pairwise fun a b => a.val < b.val := by decide
    have hj' : j ∈ as ++ k :: bs := hab ▸ mem_allFour j
    rw [hab, List.pairwise_append] at hs
    rcases List.mem_append.mp hj' with hm | hm
    · simpa using hno j hm
    · rcases List.mem_cons.mp hm with rfl | hm
      · exact absurd hj (Nat.lt_irrefl _)
      · exact absurd hj (Nat.lt_asymm ((List.pairwise_cons.mp hs.2.1).1 j hm))
  · simpa using List.find?_eq_none.mp h k (mem_allFour k)

theorem measured_iff (st : KeyState) :
    st.measured = true ↔ st = .calibrating ∨ st = .released ∨ st = .pressed ∨ st = .holding := by
  cases st <;> simp [KeyState.measured]

end Sys2Proof.Machine
end

