-- ==== Sys2Proof/Laws/Message.lean ====
section
/-! SUPPORT. The characters of a message: what building and reading each part says of the other (R41 to R43, R184 to R186), and
the bit times of its characters (R39). -/

namespace Sys2Proof.Machine

/-! ## Fields of two characters -/

@[simp] theorem wordOf_bytes (w : Word16) : wordOf (hiByte w) (loByte w) = w := by
  apply BitVec.eq_of_toNat_eq
  simp only [wordOf, hiByte, loByte, BitVec.toNat_ofNat]
  have := w.isLt
  omega

@[simp] theorem hiByte_wordOf (h l : Byte) : hiByte (wordOf h l) = h := by
  apply BitVec.eq_of_toNat_eq
  simp only [wordOf, hiByte, BitVec.toNat_ofNat]
  have := h.isLt
  have := l.isLt
  omega

@[simp] theorem loByte_wordOf (h l : Byte) : loByte (wordOf h l) = l := by
  apply BitVec.eq_of_toNat_eq
  simp only [wordOf, loByte, BitVec.toNat_ofNat]
  have := h.isLt
  have := l.isLt
  omega

/-! ## Lists of entries -/

/-- 11.3: two characters a pair. -/
theorem pairs_length (ps : List Pair) : (ps.flatMap Pair.bytes).length = 2 * ps.length := by
  induction ps with
  | nil => rfl
  | cons p ps ih => simp only [List.flatMap_cons, List.length_append, ih, List.length_cons, Pair.bytes]; simp; omega

/-- 11.3: four characters an entry. -/
theorem entries_length (es : List PlaceEntry) : (es.flatMap PlaceEntry.bytes).length = 4 * es.length := by
  induction es with
  | nil => rfl
  | cons p ps ih => simp only [List.flatMap_cons, List.length_append, ih, List.length_cons, PlaceEntry.bytes]; simp; omega

/-- R184: characters read as pairs exactly when they are the characters of those pairs. -/
theorem readPairs_eq_some (bs : List Byte) (ps : List Pair) : readPairs bs = some ps ↔ ps.flatMap Pair.bytes = bs := by
  induction bs using readPairs.induct generalizing ps with
  | case1 => cases ps <;> simp [readPairs, Pair.bytes]
  | case2 a =>
    cases ps with
    | nil => simp [readPairs]
    | cons p ps => simp [readPairs, Pair.bytes]
  | case3 a b rest ih =>
    cases ps with
    | nil => simp [readPairs]
    | cons p ps =>
      obtain ⟨st, inc⟩ := p
      simp only [readPairs, Option.map_eq_some_iff, ih, List.flatMap_cons, Pair.bytes, List.cons_append, List.nil_append,
        List.cons.injEq, Pair.mk.injEq]
      constructor
      · rintro ⟨qs, rfl, ⟨rfl, rfl⟩, rfl⟩
        exact ⟨rfl, rfl, rfl⟩
      · rintro ⟨rfl, rfl, rfl⟩
        exact ⟨ps, rfl, ⟨rfl, rfl⟩, rfl⟩

/-- R185: four characters read as an entry exactly when they are that entry's. -/
theorem readQuad_eq_some (a b c d : Byte) (p : PlaceEntry) : readQuad a b c d = some p ↔ p.bytes = [a, b, c, d] := by
  obtain ⟨channel, cls, units, start, len⟩ := p
  have hch := channel.isLt
  have hcl := cls.isLt
  have ha := a.isLt
  simp only [readQuad, PlaceEntry.bytes]
  constructor
  · intro h
    split at h
    · simp only [Option.some.injEq, PlaceEntry.mk.injEq] at h
      obtain ⟨rfl, rfl, rfl, rfl, rfl⟩ := h
      simp only [List.cons.injEq, and_true]
      apply BitVec.eq_of_toNat_eq
      simp only [BitVec.toNat_ofNat, Fin.ofNat]
      omega
    · exact absurd h (by simp)
  · intro h
    simp only [List.cons.injEq, and_true] at h
    obtain ⟨rfl, rfl, rfl, rfl⟩ := h
    have hv : (BitVec.ofNat 8 (channel.val * 4 + cls.val)).toNat = channel.val * 4 + cls.val := by
      simp only [BitVec.toNat_ofNat]
      omega
    rw [hv, if_pos (by omega)]
    simp only [Option.some.injEq, PlaceEntry.mk.injEq, and_true]
    refine ⟨Fin.ext ?_, Fin.ext ?_⟩ <;> simp only [Fin.ofNat] <;> omega

/-- R185: characters read as entries exactly when they are the characters of those entries. -/
theorem readQuads_eq_some : ∀ (bs : List Byte) (es : List PlaceEntry),
    readQuads bs = some es ↔ es.flatMap PlaceEntry.bytes = bs
  | [], [] => by simp [readQuads]
  | [], p :: ps => by simp [readQuads, PlaceEntry.bytes]
  | [a], [] => by simp [readQuads]
  | [a], p :: ps => by simp [readQuads, PlaceEntry.bytes]
  | [a, b], [] => by simp [readQuads]
  | [a, b], p :: ps => by simp [readQuads, PlaceEntry.bytes]
  | [a, b, c], [] => by simp [readQuads]
  | [a, b, c], p :: ps => by simp [readQuads, PlaceEntry.bytes]
  | a :: b :: c :: d :: rest, [] => by
    simp only [readQuads]
    cases readQuad a b c d <;> cases readQuads rest <;> simp
  | a :: b :: c :: d :: rest, p :: ps => by
    have hq := readQuad_eq_some a b c d
    have hr := readQuads_eq_some rest
    simp only [readQuads]
    constructor
    · intro h
      cases h1 : readQuad a b c d with
      | none => simp [h1] at h
      | some q =>
        cases h2 : readQuads rest with
        | none => simp [h1, h2] at h
        | some qs =>
          simp only [h1, h2, Option.some.injEq, List.cons.injEq] at h
          obtain ⟨rfl, rfl⟩ := h
          rw [List.flatMap_cons, (hq q).mp h1, (hr qs).mp h2]
          rfl
    · intro h
      have h' : p.bytes ++ ps.flatMap PlaceEntry.bytes = [a, b, c, d] ++ rest := by simpa [List.flatMap_cons] using h
      obtain ⟨h1, h2⟩ := List.append_inj h' (by simp [PlaceEntry.bytes])
      rw [(hq p).mpr h1, (hr ps).mpr h2]

/-! ## Payloads -/

/-- R186: an operation is read from its number alone. -/
theorem readOp_eq_some (n : Nat) (op : LevelOp) : readOp n = some op ↔ op.code = n := by
  match n with
  | 0 | 1 | 2 | 3 => cases op <;> simp [readOp, LevelOp.code]
  | n + 4 => cases op <;> simp [readOp, LevelOp.code]

/-- R186: two characters read as a LEVEL exactly when they are that LEVEL's, and its value is one the operation may carry. -/
theorem readLevel_eq_some (a v : Byte) (p : Payload) :
    readLevel a v = some p ↔
      ∃ op mask, p = .level op mask v ∧ levelValueOk op v.toNat = true ∧ BitVec.ofNat 8 (op.code * 16 + mask.toNat) = a := by
  have key : ∀ (op : LevelOp) (mask : BitVec 4), op.code = a.toNat / 16 ∧ mask = BitVec.ofNat 4 a.toNat ↔
      BitVec.ofNat 8 (op.code * 16 + mask.toNat) = a := by
    intro op mask
    have hop : op.code ≤ 3 := by cases op <;> simp [LevelOp.code]
    have hm := mask.isLt
    have ha := a.isLt
    constructor
    · rintro ⟨h1, h2⟩
      apply BitVec.eq_of_toNat_eq
      have h2' : mask.toNat = a.toNat % 16 := by rw [h2]; simp
      simp only [BitVec.toNat_ofNat]
      omega
    · intro h
      have h' : (op.code * 16 + mask.toNat) % 256 = a.toNat := by rw [← h]; simp
      refine ⟨by omega, BitVec.eq_of_toNat_eq ?_⟩
      simp only [BitVec.toNat_ofNat]
      omega
  unfold readLevel
  cases ho : readOp (a.toNat / 16) with
  | none =>
    simp only [reduceCtorEq, false_iff]
    rintro ⟨op, mask, -, -, h⟩
    have := (readOp_eq_some _ op).mpr ((key op mask).mpr h).1
    rw [ho] at this
    exact absurd this (by simp)
  | some op =>
    have hop := (readOp_eq_some _ op).mp ho
    constructor
    · intro h
      dsimp only at h
      split at h
      · rename_i hv
        injection h with h
        exact ⟨op, _, h.symm, hv, (key op _).mp ⟨hop, rfl⟩⟩
      · exact absurd h (by simp)
    · rintro ⟨op', mask, rfl, hv, h⟩
      obtain ⟨h1, rfl⟩ := (key op' mask).mpr h
      have : op = op' := by
        have hr := (readOp_eq_some _ op').mpr h1
        rw [ho] at hr
        exact Option.some.inj hr
      subst this
      simp [hv]

/-- R184: the characters of a report. -/
theorem readReport_eq_some (w : Byte) (body : List Byte) (p : Payload) :
    readReport w body = some p ↔ ∃ what, p = .report what body ∧ p.formOk = true ∧ what.code = w := by
  unfold readReport
  constructor
  · intro h
    split at h
    · rename_i hw
      split at h
      · rename_i hl
        simp only [Option.some.injEq] at h
        subst h
        exact ⟨.node, rfl, by simp [Payload.formOk, hl], by simp [What.code, hw]⟩
      · exact absurd h (by simp)
    · split at h
      · rename_i hw
        split at h
        · rename_i hl
          simp only [Option.some.injEq] at h
          subst h
          exact ⟨.channels, rfl, by simp [Payload.formOk, hl], by simp [What.code, hw]⟩
        · exact absurd h (by simp)
      · exact absurd h (by simp)
  · rintro ⟨what, rfl, hf, rfl⟩
    cases what <;> simp_all [What.code, Payload.formOk]

/-- R184, R185: characters read as a DUMP-PART exactly when they are that part's and the layout admits it, so far as their number
lets a payload hold them. -/
theorem readDumpPart_eq_some (a : Byte) (rest : List Byte) (p : DumpPart) (hl : rest.length ≤ 17) :
    readDumpPart a rest = some p ↔ p.formOk = true ∧ p.bytes = a :: rest := by
  have ha := a.isLt
  have hpairs := readPairs_eq_some rest
  have hquads := readQuads_eq_some rest
  unfold readDumpPart
  dsimp only
  constructor
  · intro h
    split at h
    · exact absurd h (by simp)
    split at h
    · split at h
      · rename_i h0 h1 h2
        simp only [Bool.and_eq_true, decide_eq_true_eq, Bool.not_eq_true', List.isEmpty_eq_false_iff] at h2
        obtain ⟨es, hes, rfl⟩ := Option.map_eq_some_iff.mp h
        have hb := (hpairs es).mp hes
        have hlen := pairs_length es
        rw [hb] at hlen
        refine ⟨?_, ?_⟩
        · have : rest.length ≠ 0 := by simpa using h2.2
          simp only [DumpPart.formOk, Bool.and_eq_true, decide_eq_true_eq]
          omega
        · have hw : a = 1 := BitVec.eq_of_toNat_eq (by simp; omega)
          simp only [DumpPart.bytes, hb, hw]
      · exact absurd h (by simp)
    split at h
    · split at h
      · split at h
        · rename_i h0 h1 h2 s f l n fl h3
          simp only [Bool.and_eq_true, decide_eq_true_eq] at h3
          simp only [Option.some.injEq] at h
          subst h
          refine ⟨rfl, ?_⟩
          have hfl : fl = 0 ∨ fl = 1 ∨ fl = 2 ∨ fl = 3 := by
            have : fl.toNat = 0 ∨ fl.toNat = 1 ∨ fl.toNat = 2 ∨ fl.toNat = 3 := by omega
            rcases this with h | h | h | h
            · exact Or.inl (BitVec.eq_of_toNat_eq h)
            · exact Or.inr (Or.inl (BitVec.eq_of_toNat_eq h))
            · exact Or.inr (Or.inr (Or.inl (BitVec.eq_of_toNat_eq h)))
            · exact Or.inr (Or.inr (Or.inr (BitVec.eq_of_toNat_eq h)))
          have hw : a = 2 := BitVec.eq_of_toNat_eq (by simp; omega)
          subst hw
          rcases hfl with rfl | rfl | rfl | rfl <;> rfl
        · exact absurd h (by simp)
      · exact absurd h (by simp)
    split at h
    · split at h
      · rename_i h0 h1 h2 h3 h4
        simp only [Bool.and_eq_true, decide_eq_true_eq, Bool.not_eq_true', List.isEmpty_eq_false_iff] at h4
        cases hq : readQuads rest with
        | none => simp [hq] at h
        | some qs =>
          simp only [hq] at h
          split at h
          · rename_i h5
            simp only [Option.some.injEq] at h
            subst h
            have hb := (hquads qs).mp hq
            have hlen := entries_length qs
            rw [hb] at hlen
            have hne : rest.length ≠ 0 := by simpa using h4.2
            refine ⟨?_, ?_⟩
            · have h5' : qs.all PlaceEntry.formOk = true := h5
              simp only [DumpPart.formOk, Bool.and_eq_true, decide_eq_true_eq, h5', and_true]
              omega
            · simp only [DumpPart.bytes, hb, List.cons.injEq, and_true]
              apply BitVec.eq_of_toNat_eq
              simp only [BitVec.toNat_ofNat]
              omega
          · exact absurd h (by simp)
      · exact absurd h (by simp)
    · exact absurd h (by simp)
  · rintro ⟨hf, hb⟩
    cases p with
    | roster es =>
      simp only [DumpPart.bytes, List.cons.injEq] at hb
      obtain ⟨rfl, hb⟩ := hb
      have hlen := pairs_length es
      rw [hb] at hlen
      simp only [DumpPart.formOk, Bool.and_eq_true, decide_eq_true_eq] at hf
      have hne : rest.isEmpty = false := by cases rest <;> simp_all
      simp [(hpairs es).mpr hb, hne]
    | cursor c =>
      obtain ⟨src, f, l, n, valid, complete⟩ := c
      simp only [DumpPart.bytes, List.cons.injEq] at hb
      obtain ⟨rfl, rfl⟩ := hb
      cases valid <;> cases complete <;> simp [boolByte]
    | claims st es =>
      simp only [DumpPart.bytes, List.cons.injEq] at hb
      obtain ⟨rfl, hb⟩ := hb
      have hlen := entries_length es
      rw [hb] at hlen
      simp only [DumpPart.formOk, Bool.and_eq_true, decide_eq_true_eq] at hf
      obtain ⟨⟨⟨⟨h1, h2⟩, h3⟩, h4⟩, h5⟩ := hf
      have hne : rest.isEmpty = false := by cases rest <;> simp_all
      have hv : (BitVec.ofNat 8 (st * 8 + 3)).toNat = st * 8 + 3 := by
        simp only [BitVec.toNat_ofNat]
        omega
      have h5' : es.all PlaceEntry.claimOk = true := h5
      rw [hv, if_neg (by omega), if_neg (by omega), if_neg (by omega), if_pos (by omega),
        show (st * 8 + 3) / 8 = st by omega]
      simp [(hquads es).mpr hb, hne, h1, h2, h5']

/-- R184: a shed level in one character, whose upper bits are 0. -/
theorem shed_code (l : Num4) (b : Byte) : b.toNat < 4 ∧ l = Fin.ofNat 4 b.toNat ↔ BitVec.ofNat 8 l.val = b := by
  have hl := l.isLt
  constructor
  · rintro ⟨h, rfl⟩
    apply BitVec.eq_of_toNat_eq
    simp only [Fin.ofNat, BitVec.toNat_ofNat]
    omega
  · rintro rfl
    refine ⟨by simp only [BitVec.toNat_ofNat]; omega, Fin.ext ?_⟩
    simp only [Fin.ofNat, BitVec.toNat_ofNat]
    omega

/-- R184 to R186: what a payload that reads as `p` says of its kind and its characters. -/
theorem readPayload_some {kind : Nat} {bs : List Byte} {p : Payload} (hl : bs.length ≤ 18)
    (h : readPayload kind bs = some p) : p.formOk = true ∧ p.kind = kind ∧ p.bytes = bs := by
  unfold readPayload at h
  split at h
  · injection h with h
    subst h
    simp [Payload.formOk, Payload.kind, Payload.bytes]
  · injection h with h
    subst h
    simp [Payload.formOk, Payload.kind, Payload.bytes]
  · split at h
    · rename_i hs
      injection h with h
      subst h
      have := (shed_code _ _).mp ⟨hs, rfl⟩
      exact ⟨rfl, rfl, by simp only [Payload.bytes, hiByte_wordOf, loByte_wordOf, this]⟩
    · exact absurd h (by simp)
  · obtain ⟨q, hq, rfl⟩ := Option.map_eq_some_iff.mp h
    simp only [List.length_cons] at hl
    obtain ⟨h1, h2⟩ := (readDumpPart_eq_some _ _ q (by omega)).mp hq
    exact ⟨h1, rfl, h2⟩
  · rename_i e rest
    split at h
    · exact absurd h (by simp)
    · rename_i hne
      obtain ⟨ps, hps, rfl⟩ := Option.map_eq_some_iff.mp h
      have hb := (readPairs_eq_some _ _).mp hps
      have hlen := pairs_length ps
      rw [hb] at hlen
      have : rest.length ≠ 0 := by simpa using hne
      simp only [List.length_cons] at hl
      refine ⟨?_, rfl, by simp only [Payload.bytes, hb]⟩
      simp only [Payload.formOk, Bool.and_eq_true, decide_eq_true_eq]
      omega
  · rename_i e rest
    split at h
    · exact absurd h (by simp)
    · rename_i hne
      cases hq : readQuads rest with
      | none => simp [hq] at h
      | some qs =>
        simp only [hq] at h
        split at h
        · rename_i h5
          injection h with h
          subst h
          have hb := (readQuads_eq_some _ _).mp hq
          have hlen := entries_length qs
          rw [hb] at hlen
          have : rest.length ≠ 0 := by simpa using hne
          simp only [List.length_cons] at hl
          refine ⟨?_, rfl, by simp only [Payload.bytes, hb]⟩
          simp only [Payload.formOk, Bool.and_eq_true, decide_eq_true_eq, h5, and_true]
          omega
        · exact absurd h (by simp)
  · split at h
    · rename_i hs
      injection h with h
      subst h
      have := (shed_code _ _).mp ⟨hs, rfl⟩
      exact ⟨rfl, rfl, by simp only [Payload.bytes, this]⟩
    · exact absurd h (by simp)
  · injection h with h
    subst h
    simp [Payload.formOk, Payload.kind, Payload.bytes]
  · obtain ⟨op, mask, rfl, hv, hb⟩ := (readLevel_eq_some _ _ _).mp h
    exact ⟨hv, rfl, by simp only [Payload.bytes, hb]⟩
  · injection h with h
    subst h
    simp only [List.length_cons] at hl
    refine ⟨?_, rfl, rfl⟩
    simp only [Payload.formOk, decide_eq_true_eq]
    omega
  · split at h
    · injection h with h
      subst h
      refine ⟨?_, rfl, rfl⟩
      simp only [Payload.formOk, List.length_cons, Bool.and_eq_true, decide_eq_true_eq]
      omega
    · exact absurd h (by simp)
  · split at h
    · rename_i hw
      injection h with h
      subst h
      simp [Payload.formOk, Payload.kind, Payload.bytes, What.code, hw]
    · split at h
      · rename_i hw
        injection h with h
        subst h
        simp [Payload.formOk, Payload.kind, Payload.bytes, What.code, hw]
      · exact absurd h (by simp)
  · obtain ⟨w, rfl, hf, hw⟩ := (readReport_eq_some _ _ _).mp h
    exact ⟨hf, rfl, by simp only [Payload.bytes, hw]⟩
  · exact absurd h (by simp)

/-- A payload of no form error is no longer than a message holds (R41, R184). -/
theorem formOk_length {p : Payload} (h : p.formOk = true) : p.bytes.length ≤ Config.payloadLimit := by
  have hl : Config.payloadLimit = 18 := rfl
  rw [hl]
  cases p with
  | dumpPart q =>
    cases q <;>
      simp only [Payload.formOk, DumpPart.formOk, Bool.and_eq_true, decide_eq_true_eq] at h <;>
      simp only [Payload.bytes, DumpPart.bytes, List.length_cons, List.length_nil, pairs_length, entries_length] <;> omega
  | report w b =>
    cases w <;> simp only [Payload.formOk, beq_iff_eq] at h <;> simp only [Payload.bytes, List.length_cons] <;> omega
  | _ =>
    simp only [Payload.formOk, Bool.and_eq_true, decide_eq_true_eq] at h
    simp only [Payload.bytes, List.length_cons, List.length_nil, pairs_length, entries_length]
    omega

/-- R184 to R186: a payload of no form error is read from its characters. -/
theorem readPayload_bytes {p : Payload} (h : p.formOk = true) : readPayload p.kind p.bytes = some p := by
  have hlen := formOk_length h
  cases p with
  | join e d => simp [Payload.kind, Payload.bytes, readPayload]
  | found e d => simp [Payload.kind, Payload.bytes, readPayload]
  | dumpOpen f =>
    obtain ⟨h1, h2⟩ := (shed_code f.shed _).mpr rfl
    simp only [Payload.kind, Payload.bytes, readPayload, wordOf_bytes, if_pos h1, ← h2]
  | dumpPart q =>
    cases hb : q.bytes with
    | nil => cases q <;> simp [DumpPart.bytes] at hb
    | cons a rest =>
      have hl : rest.length ≤ 17 := by
        have : (Payload.dumpPart q).bytes.length ≤ 18 := hlen
        simp only [Payload.bytes, hb, List.length_cons] at this
        omega
      have := (readDumpPart_eq_some a rest q hl).mpr ⟨h, hb⟩
      simp only [Payload.kind, Payload.bytes, hb, readPayload, this, Option.map_some]
  | evict e ps =>
    simp only [Payload.formOk, Bool.and_eq_true, decide_eq_true_eq] at h
    have hne : (ps.flatMap Pair.bytes).isEmpty = false := by
      cases ps with
      | nil => simp at h
      | cons p ps => simp [Pair.bytes]
    simp [Payload.kind, Payload.bytes, readPayload, hne, (readPairs_eq_some _ ps).mpr rfl]
  | place e es =>
    simp only [Payload.formOk, Bool.and_eq_true, decide_eq_true_eq] at h
    have hne : (es.flatMap PlaceEntry.bytes).isEmpty = false := by
      cases es with
      | nil => simp at h
      | cons p ps => simp [PlaceEntry.bytes]
    simp only [Payload.kind, Payload.bytes, readPayload, hne, (readQuads_eq_some _ es).mpr rfl, h.2]
    simp
  | shed e l =>
    obtain ⟨h1, h2⟩ := (shed_code l _).mpr rfl
    simp only [Payload.kind, Payload.bytes, readPayload, if_pos h1, ← h2]
  | presence n k c i => simp [Payload.kind, Payload.bytes, readPayload]
  | level op mask v =>
    simp only [Payload.kind, Payload.bytes, readPayload]
    exact (readLevel_eq_some _ _ _).mpr ⟨op, mask, rfl, h, rfl⟩
  | scene f l ls => simp [Payload.kind, Payload.bytes, readPayload]
  | sceneMore ls =>
    simp only [Payload.formOk, Bool.and_eq_true, decide_eq_true_eq] at h
    cases ls with
    | nil => simp at h
    | cons l ls =>
      simp only [List.length_cons] at h
      simp only [Payload.kind, Payload.bytes, readPayload]
      rw [if_pos (by omega)]
  | query w => cases w <;> simp [Payload.kind, Payload.bytes, readPayload, What.code]
  | report w b =>
    simp only [Payload.kind, Payload.bytes, readPayload]
    exact (readReport_eq_some _ _ _).mpr ⟨w, rfl, h, rfl⟩

/-! ## Bit times (R39) -/

@[simp] theorem length_charBits (c : Byte) : (charBits c).length = 10 := by simp [charBits]

/-- The bit times of characters sent back to back: those of character `k`, 0 the first, begin at bit time 10 × k. -/
theorem bits_getElem? : ∀ (cs : List Byte) (k i : Nat), i < 10 →
    (cs.flatMap charBits)[10 * k + i]? = cs[k]?.bind fun c => (charBits c)[i]?
  | [], k, i, _ => by simp
  | c :: cs, 0, i, hi => by
    rw [List.flatMap_cons, List.getElem?_append_left (by simp; omega)]
    simp
  | c :: cs, k + 1, i, hi => by
    rw [List.flatMap_cons, List.getElem?_append_right (by simp; omega), length_charBits,
      show 10 * (k + 1) + i - 10 = 10 * k + i by omega, bits_getElem? cs k i hi]
    simp

/-- R39: ten bit times a character. -/
theorem Message.bits_length (m : Message) : m.bits.length = 10 * m.chars.length := by
  unfold Message.bits
  induction m.chars with
  | nil => rfl
  | cons c cs ih => simp only [List.flatMap_cons, List.length_append, length_charBits, ih, List.length_cons]; omega

/-- R39: the start bit is dominant. -/
theorem charBits_start (c : Byte) : (charBits c)[0]? = some false := rfl

/-- R39: the data bits go most significant first. -/
theorem charBits_data (c : Byte) (i : Nat) (h : i < 8) : (charBits c)[1 + i]? = some (c.getLsbD (7 - i)) := by
  match i, h with
  | 0, _ | 1, _ | 2, _ | 3, _ | 4, _ | 5, _ | 6, _ | 7, _ => rfl

/-- R39: the stop bit is recessive. -/
theorem charBits_stop (c : Byte) : (charBits c)[9]? = some true := rfl

/-- R38, R39: bit time `i` of character `k` as the sender puts it on DLN. -/
theorem dlnBit_char {s : State} {a : Attempt} {k i : Nat} {c : Byte} (ha : s.line.attempt = some a)
    (hc : a.message.chars[k]? = some c) (hi : i < 10) :
    s.dlnBit (10 * k + i) = bitPin ((charBits c)[i]?.getD true) := by
  unfold State.dlnBit
  rw [ha]
  simp only [Message.bits, List.getD_eq_getElem?_getD, bits_getElem? _ k i hi, hc, Option.bind_some]

end Sys2Proof.Machine
end

