-- ==== Sys2Proof/Laws/State.lean ====
section
/-! SUPPORT. The fields that each named update of State leaves as they are, one lemma a field, for `simp`. -/

namespace Sys2Proof.Machine

set_option Elab.async false

/-! `State.coldReset`: the fields it leaves. -/

@[simp] theorem State.coldReset_pending (s : State) (cause : HaltCause) : (s.coldReset cause).pending = s.pending := rfl
@[simp] theorem State.coldReset_freeIndex (s : State) (cause : HaltCause) : (s.coldReset cause).freeIndex = s.freeIndex := rfl

/-! `State.configure`: the fields it leaves. -/

@[simp] theorem State.configure_pending (s : State) (image : List Byte) : (s.configure image).pending = s.pending := rfl
@[simp] theorem State.configure_freeIndex (s : State) (image : List Byte) : (s.configure image).freeIndex = s.freeIndex := rfl
@[simp] theorem State.configure_engine (s : State) (image : List Byte) : (s.configure image).engine = s.engine := rfl

/-! `State.halt`: the fields it leaves. -/

@[simp] theorem State.halt_pending (s : State) (cause : HaltCause) : (s.halt cause).pending = s.pending := rfl
@[simp] theorem State.halt_freeIndex (s : State) (cause : HaltCause) : (s.halt cause).freeIndex = s.freeIndex := rfl
@[simp] theorem State.halt_cfg (s : State) (cause : HaltCause) : (s.halt cause).cfg = s.cfg := rfl

/-! `State.restartBlocks`: the fields it leaves. -/

@[simp] theorem State.restartBlocks_pending (s : State) : (s.restartBlocks).pending = s.pending := rfl
@[simp] theorem State.restartBlocks_freeIndex (s : State) : (s.restartBlocks).freeIndex = s.freeIndex := rfl
@[simp] theorem State.restartBlocks_loader (s : State) : (s.restartBlocks).loader = s.loader := rfl
@[simp] theorem State.restartBlocks_cfg (s : State) : (s.restartBlocks).cfg = s.cfg := rfl
@[simp] theorem State.restartBlocks_line (s : State) : (s.restartBlocks).line = s.line := rfl
@[simp] theorem State.restartBlocks_touch (s : State) : (s.restartBlocks).touch = s.touch := rfl

/-! `State.returnToJoinSend`: the fields it leaves. -/

@[simp] theorem State.returnToJoinSend_pending (s : State) : (s.returnToJoinSend).pending = s.pending := rfl
@[simp] theorem State.returnToJoinSend_freeIndex (s : State) : (s.returnToJoinSend).freeIndex = s.freeIndex := rfl
@[simp] theorem State.returnToJoinSend_loader (s : State) : (s.returnToJoinSend).loader = s.loader := rfl
@[simp] theorem State.returnToJoinSend_cfg (s : State) : (s.returnToJoinSend).cfg = s.cfg := rfl
@[simp] theorem State.returnToJoinSend_timer (s : State) : (s.returnToJoinSend).timer = s.timer := rfl
@[simp] theorem State.returnToJoinSend_chans (s : State) : (s.returnToJoinSend).chans = s.chans := rfl
@[simp] theorem State.returnToJoinSend_out (s : State) : (s.returnToJoinSend).out = s.out := rfl
@[simp] theorem State.returnToJoinSend_touch (s : State) : (s.returnToJoinSend).touch = s.touch := rfl

/-! `State.failDump`: the fields it leaves. -/

@[simp] theorem State.failDump_pending (s : State) : (s.failDump).pending = s.pending := rfl
@[simp] theorem State.failDump_freeIndex (s : State) : (s.failDump).freeIndex = s.freeIndex := rfl
@[simp] theorem State.failDump_loader (s : State) : (s.failDump).loader = s.loader := rfl
@[simp] theorem State.failDump_cfg (s : State) : (s.failDump).cfg = s.cfg := rfl
@[simp] theorem State.failDump_timer (s : State) : (s.failDump).timer = s.timer := rfl
@[simp] theorem State.failDump_chans (s : State) : (s.failDump).chans = s.chans := rfl
@[simp] theorem State.failDump_out (s : State) : (s.failDump).out = s.out := rfl
@[simp] theorem State.failDump_touch (s : State) : (s.failDump).touch = s.touch := rfl

/-! `State.enterJoinWait`: the fields it leaves. -/

@[simp] theorem State.enterJoinWait_pending (s : State) : (s.enterJoinWait).pending = s.pending := rfl
@[simp] theorem State.enterJoinWait_freeIndex (s : State) : (s.enterJoinWait).freeIndex = s.freeIndex := rfl
@[simp] theorem State.enterJoinWait_loader (s : State) : (s.enterJoinWait).loader = s.loader := rfl
@[simp] theorem State.enterJoinWait_cfg (s : State) : (s.enterJoinWait).cfg = s.cfg := rfl
@[simp] theorem State.enterJoinWait_timer (s : State) : (s.enterJoinWait).timer = s.timer := rfl
@[simp] theorem State.enterJoinWait_engine (s : State) : (s.enterJoinWait).engine = s.engine := rfl
@[simp] theorem State.enterJoinWait_chans (s : State) : (s.enterJoinWait).chans = s.chans := rfl
@[simp] theorem State.enterJoinWait_out (s : State) : (s.enterJoinWait).out = s.out := rfl
@[simp] theorem State.enterJoinWait_touch (s : State) : (s.enterJoinWait).touch = s.touch := rfl

/-! `State.enterFoundSend`: the fields it leaves. -/

@[simp] theorem State.enterFoundSend_pending (s : State) : (s.enterFoundSend).pending = s.pending := rfl
@[simp] theorem State.enterFoundSend_freeIndex (s : State) : (s.enterFoundSend).freeIndex = s.freeIndex := rfl
@[simp] theorem State.enterFoundSend_loader (s : State) : (s.enterFoundSend).loader = s.loader := rfl
@[simp] theorem State.enterFoundSend_cfg (s : State) : (s.enterFoundSend).cfg = s.cfg := rfl
@[simp] theorem State.enterFoundSend_timer (s : State) : (s.enterFoundSend).timer = s.timer := rfl
@[simp] theorem State.enterFoundSend_engine (s : State) : (s.enterFoundSend).engine = s.engine := rfl
@[simp] theorem State.enterFoundSend_chans (s : State) : (s.enterFoundSend).chans = s.chans := rfl
@[simp] theorem State.enterFoundSend_out (s : State) : (s.enterFoundSend).out = s.out := rfl
@[simp] theorem State.enterFoundSend_touch (s : State) : (s.enterFoundSend).touch = s.touch := rfl

/-! `State.enterDumpReceive`: the fields it leaves. -/

@[simp] theorem State.enterDumpReceive_pending (s : State) (source : Nat) (f : DumpOpen) : (s.enterDumpReceive source f).pending = s.pending := rfl
@[simp] theorem State.enterDumpReceive_freeIndex (s : State) (source : Nat) (f : DumpOpen) : (s.enterDumpReceive source f).freeIndex = s.freeIndex := rfl
@[simp] theorem State.enterDumpReceive_loader (s : State) (source : Nat) (f : DumpOpen) : (s.enterDumpReceive source f).loader = s.loader := rfl
@[simp] theorem State.enterDumpReceive_cfg (s : State) (source : Nat) (f : DumpOpen) : (s.enterDumpReceive source f).cfg = s.cfg := rfl
@[simp] theorem State.enterDumpReceive_timer (s : State) (source : Nat) (f : DumpOpen) : (s.enterDumpReceive source f).timer = s.timer := rfl
@[simp] theorem State.enterDumpReceive_chans (s : State) (source : Nat) (f : DumpOpen) : (s.enterDumpReceive source f).chans = s.chans := rfl
@[simp] theorem State.enterDumpReceive_out (s : State) (source : Nat) (f : DumpOpen) : (s.enterDumpReceive source f).out = s.out := rfl
@[simp] theorem State.enterDumpReceive_touch (s : State) (source : Nat) (f : DumpOpen) : (s.enterDumpReceive source f).touch = s.touch := rfl

/-! `State.enterRun`: the fields it leaves. -/

@[simp] theorem State.enterRun_pending (s : State) : (s.enterRun).pending = s.pending := rfl
@[simp] theorem State.enterRun_freeIndex (s : State) : (s.enterRun).freeIndex = s.freeIndex := rfl
@[simp] theorem State.enterRun_loader (s : State) : (s.enterRun).loader = s.loader := rfl
@[simp] theorem State.enterRun_cfg (s : State) : (s.enterRun).cfg = s.cfg := rfl
@[simp] theorem State.enterRun_timer (s : State) : (s.enterRun).timer = s.timer := rfl
@[simp] theorem State.enterRun_out (s : State) : (s.enterRun).out = s.out := rfl
@[simp] theorem State.enterRun_touch (s : State) : (s.enterRun).touch = s.touch := rfl

/-! `State.found`: the fields it leaves. -/

@[simp] theorem State.found_pending (s : State) (period : Byte) : (s.found period).pending = s.pending := rfl
@[simp] theorem State.found_freeIndex (s : State) (period : Byte) : (s.found period).freeIndex = s.freeIndex := rfl
@[simp] theorem State.found_loader (s : State) (period : Byte) : (s.found period).loader = s.loader := rfl
@[simp] theorem State.found_cfg (s : State) (period : Byte) : (s.found period).cfg = s.cfg := rfl
@[simp] theorem State.found_out (s : State) (period : Byte) : (s.found period).out = s.out := rfl
@[simp] theorem State.found_touch (s : State) (period : Byte) : (s.found period).touch = s.touch := rfl

/-! `State.addPendings`: the fields it leaves. -/

@[simp] theorem State.addPendings_pending (s : State) (e : Byte) (chs : List Num4) : (s.addPendings e chs).pending = s.pending := rfl
@[simp] theorem State.addPendings_freeIndex (s : State) (e : Byte) (chs : List Num4) : (s.addPendings e chs).freeIndex = s.freeIndex := rfl
@[simp] theorem State.addPendings_loader (s : State) (e : Byte) (chs : List Num4) : (s.addPendings e chs).loader = s.loader := rfl
@[simp] theorem State.addPendings_cfg (s : State) (e : Byte) (chs : List Num4) : (s.addPendings e chs).cfg = s.cfg := rfl
@[simp] theorem State.addPendings_timer (s : State) (e : Byte) (chs : List Num4) : (s.addPendings e chs).timer = s.timer := rfl
@[simp] theorem State.addPendings_line (s : State) (e : Byte) (chs : List Num4) : (s.addPendings e chs).line = s.line := rfl
@[simp] theorem State.addPendings_engine (s : State) (e : Byte) (chs : List Num4) : (s.addPendings e chs).engine = s.engine := rfl
@[simp] theorem State.addPendings_chans (s : State) (e : Byte) (chs : List Num4) : (s.addPendings e chs).chans = s.chans := rfl
@[simp] theorem State.addPendings_ctl (s : State) (e : Byte) (chs : List Num4) : (s.addPendings e chs).ctl = s.ctl := rfl
@[simp] theorem State.addPendings_touch (s : State) (e : Byte) (chs : List Num4) : (s.addPendings e chs).touch = s.touch := rfl

/-! `State.reloadPresence`: the fields it leaves. -/

@[simp] theorem State.reloadPresence_pending (s : State) : (s.reloadPresence).pending = s.pending := rfl
@[simp] theorem State.reloadPresence_freeIndex (s : State) : (s.reloadPresence).freeIndex = s.freeIndex := rfl
@[simp] theorem State.reloadPresence_loader (s : State) : (s.reloadPresence).loader = s.loader := rfl
@[simp] theorem State.reloadPresence_cfg (s : State) : (s.reloadPresence).cfg = s.cfg := rfl
@[simp] theorem State.reloadPresence_timer (s : State) : (s.reloadPresence).timer = s.timer := rfl
@[simp] theorem State.reloadPresence_engine (s : State) : (s.reloadPresence).engine = s.engine := rfl
@[simp] theorem State.reloadPresence_chans (s : State) : (s.reloadPresence).chans = s.chans := rfl
@[simp] theorem State.reloadPresence_out (s : State) : (s.reloadPresence).out = s.out := rfl
@[simp] theorem State.reloadPresence_touch (s : State) : (s.reloadPresence).touch = s.touch := rfl

/-! `State.settleSlots`: the fields it leaves. -/

@[simp] theorem State.settleSlots_pending (s : State) : (s.settleSlots).pending = s.pending := rfl
@[simp] theorem State.settleSlots_freeIndex (s : State) : (s.settleSlots).freeIndex = s.freeIndex := rfl
@[simp] theorem State.settleSlots_loader (s : State) : (s.settleSlots).loader = s.loader := rfl
@[simp] theorem State.settleSlots_cfg (s : State) : (s.settleSlots).cfg = s.cfg := rfl
@[simp] theorem State.settleSlots_timer (s : State) : (s.settleSlots).timer = s.timer := rfl
@[simp] theorem State.settleSlots_engine (s : State) : (s.settleSlots).engine = s.engine := rfl
@[simp] theorem State.settleSlots_chans (s : State) : (s.settleSlots).chans = s.chans := rfl
@[simp] theorem State.settleSlots_out (s : State) : (s.settleSlots).out = s.out := rfl
@[simp] theorem State.settleSlots_ctl (s : State) : (s.settleSlots).ctl = s.ctl := rfl
@[simp] theorem State.settleSlots_touch (s : State) : (s.settleSlots).touch = s.touch := rfl

/-! `State.dropHead`: the fields it leaves. -/

@[simp] theorem State.dropHead_pending (s : State) : (s.dropHead).pending = s.pending := rfl
@[simp] theorem State.dropHead_freeIndex (s : State) : (s.dropHead).freeIndex = s.freeIndex := rfl
@[simp] theorem State.dropHead_loader (s : State) : (s.dropHead).loader = s.loader := rfl
@[simp] theorem State.dropHead_cfg (s : State) : (s.dropHead).cfg = s.cfg := rfl
@[simp] theorem State.dropHead_timer (s : State) : (s.dropHead).timer = s.timer := rfl
@[simp] theorem State.dropHead_engine (s : State) : (s.dropHead).engine = s.engine := rfl
@[simp] theorem State.dropHead_chans (s : State) : (s.dropHead).chans = s.chans := rfl
@[simp] theorem State.dropHead_out (s : State) : (s.dropHead).out = s.out := rfl
@[simp] theorem State.dropHead_ctl (s : State) : (s.dropHead).ctl = s.ctl := rfl
@[simp] theorem State.dropHead_touch (s : State) : (s.dropHead).touch = s.touch := rfl

/-! `State.giveRelief`: the fields it leaves. -/

@[simp] theorem State.giveRelief_pending (s : State) : (s.giveRelief).pending = s.pending := rfl
@[simp] theorem State.giveRelief_freeIndex (s : State) : (s.giveRelief).freeIndex = s.freeIndex := rfl
@[simp] theorem State.giveRelief_loader (s : State) : (s.giveRelief).loader = s.loader := rfl
@[simp] theorem State.giveRelief_cfg (s : State) : (s.giveRelief).cfg = s.cfg := rfl
@[simp] theorem State.giveRelief_timer (s : State) : (s.giveRelief).timer = s.timer := rfl
@[simp] theorem State.giveRelief_line (s : State) : (s.giveRelief).line = s.line := rfl
@[simp] theorem State.giveRelief_engine (s : State) : (s.giveRelief).engine = s.engine := rfl
@[simp] theorem State.giveRelief_out (s : State) : (s.giveRelief).out = s.out := rfl
@[simp] theorem State.giveRelief_ctl (s : State) : (s.giveRelief).ctl = s.ctl := rfl
@[simp] theorem State.giveRelief_touch (s : State) : (s.giveRelief).touch = s.touch := rfl

/-! `State.setLowCount`: the fields it leaves. -/

@[simp] theorem State.setLowCount_pending (s : State) (n : Num4) (count : Nat) : (s.setLowCount n count).pending = s.pending := rfl
@[simp] theorem State.setLowCount_freeIndex (s : State) (n : Num4) (count : Nat) : (s.setLowCount n count).freeIndex = s.freeIndex := rfl
@[simp] theorem State.setLowCount_loader (s : State) (n : Num4) (count : Nat) : (s.setLowCount n count).loader = s.loader := rfl
@[simp] theorem State.setLowCount_cfg (s : State) (n : Num4) (count : Nat) : (s.setLowCount n count).cfg = s.cfg := rfl
@[simp] theorem State.setLowCount_timer (s : State) (n : Num4) (count : Nat) : (s.setLowCount n count).timer = s.timer := rfl
@[simp] theorem State.setLowCount_line (s : State) (n : Num4) (count : Nat) : (s.setLowCount n count).line = s.line := rfl
@[simp] theorem State.setLowCount_engine (s : State) (n : Num4) (count : Nat) : (s.setLowCount n count).engine = s.engine := rfl
@[simp] theorem State.setLowCount_chans (s : State) (n : Num4) (count : Nat) : (s.setLowCount n count).chans = s.chans := rfl
@[simp] theorem State.setLowCount_ctl (s : State) (n : Num4) (count : Nat) : (s.setLowCount n count).ctl = s.ctl := rfl
@[simp] theorem State.setLowCount_touch (s : State) (n : Num4) (count : Nat) : (s.setLowCount n count).touch = s.touch := rfl

/-! `State.reportOpen`: the fields it leaves. -/

@[simp] theorem State.reportOpen_pending (s : State) (n : Num4) : (s.reportOpen n).pending = s.pending := rfl
@[simp] theorem State.reportOpen_freeIndex (s : State) (n : Num4) : (s.reportOpen n).freeIndex = s.freeIndex := rfl
@[simp] theorem State.reportOpen_loader (s : State) (n : Num4) : (s.reportOpen n).loader = s.loader := rfl
@[simp] theorem State.reportOpen_cfg (s : State) (n : Num4) : (s.reportOpen n).cfg = s.cfg := rfl
@[simp] theorem State.reportOpen_timer (s : State) (n : Num4) : (s.reportOpen n).timer = s.timer := rfl
@[simp] theorem State.reportOpen_line (s : State) (n : Num4) : (s.reportOpen n).line = s.line := rfl
@[simp] theorem State.reportOpen_engine (s : State) (n : Num4) : (s.reportOpen n).engine = s.engine := rfl
@[simp] theorem State.reportOpen_ctl (s : State) (n : Num4) : (s.reportOpen n).ctl = s.ctl := rfl
@[simp] theorem State.reportOpen_touch (s : State) (n : Num4) : (s.reportOpen n).touch = s.touch := rfl

/-! `State.countSignals`: the fields it leaves. -/

@[simp] theorem State.countSignals_pending (s : State) (full error hold : Bool) : (s.countSignals full error hold).pending = s.pending := rfl
@[simp] theorem State.countSignals_freeIndex (s : State) (full error hold : Bool) : (s.countSignals full error hold).freeIndex = s.freeIndex := rfl
@[simp] theorem State.countSignals_loader (s : State) (full error hold : Bool) : (s.countSignals full error hold).loader = s.loader := rfl
@[simp] theorem State.countSignals_cfg (s : State) (full error hold : Bool) : (s.countSignals full error hold).cfg = s.cfg := rfl
@[simp] theorem State.countSignals_timer (s : State) (full error hold : Bool) : (s.countSignals full error hold).timer = s.timer := rfl
@[simp] theorem State.countSignals_engine (s : State) (full error hold : Bool) : (s.countSignals full error hold).engine = s.engine := rfl
@[simp] theorem State.countSignals_chans (s : State) (full error hold : Bool) : (s.countSignals full error hold).chans = s.chans := rfl
@[simp] theorem State.countSignals_out (s : State) (full error hold : Bool) : (s.countSignals full error hold).out = s.out := rfl
@[simp] theorem State.countSignals_ctl (s : State) (full error hold : Bool) : (s.countSignals full error hold).ctl = s.ctl := rfl
@[simp] theorem State.countSignals_touch (s : State) (full error hold : Bool) : (s.countSignals full error hold).touch = s.touch := rfl

/-! `State.acceptMarks`: the fields it leaves. -/

@[simp] theorem State.acceptMarks_pending (s : State) (m : Message) : (s.acceptMarks m).pending = s.pending := rfl
@[simp] theorem State.acceptMarks_freeIndex (s : State) (m : Message) : (s.acceptMarks m).freeIndex = s.freeIndex := rfl
@[simp] theorem State.acceptMarks_loader (s : State) (m : Message) : (s.acceptMarks m).loader = s.loader := rfl
@[simp] theorem State.acceptMarks_cfg (s : State) (m : Message) : (s.acceptMarks m).cfg = s.cfg := rfl
@[simp] theorem State.acceptMarks_timer (s : State) (m : Message) : (s.acceptMarks m).timer = s.timer := rfl
@[simp] theorem State.acceptMarks_engine (s : State) (m : Message) : (s.acceptMarks m).engine = s.engine := rfl
@[simp] theorem State.acceptMarks_chans (s : State) (m : Message) : (s.acceptMarks m).chans = s.chans := rfl
@[simp] theorem State.acceptMarks_out (s : State) (m : Message) : (s.acceptMarks m).out = s.out := rfl
@[simp] theorem State.acceptMarks_touch (s : State) (m : Message) : (s.acceptMarks m).touch = s.touch := rfl

/-! `State.setScene`: the fields it leaves. -/

@[simp] theorem State.setScene_pending (s : State) (x : Cursor × Four Channel) : (s.setScene x).pending = s.pending := rfl
@[simp] theorem State.setScene_freeIndex (s : State) (x : Cursor × Four Channel) : (s.setScene x).freeIndex = s.freeIndex := rfl
@[simp] theorem State.setScene_loader (s : State) (x : Cursor × Four Channel) : (s.setScene x).loader = s.loader := rfl
@[simp] theorem State.setScene_cfg (s : State) (x : Cursor × Four Channel) : (s.setScene x).cfg = s.cfg := rfl
@[simp] theorem State.setScene_timer (s : State) (x : Cursor × Four Channel) : (s.setScene x).timer = s.timer := rfl
@[simp] theorem State.setScene_line (s : State) (x : Cursor × Four Channel) : (s.setScene x).line = s.line := rfl
@[simp] theorem State.setScene_out (s : State) (x : Cursor × Four Channel) : (s.setScene x).out = s.out := rfl
@[simp] theorem State.setScene_ctl (s : State) (x : Cursor × Four Channel) : (s.setScene x).ctl = s.ctl := rfl
@[simp] theorem State.setScene_touch (s : State) (x : Cursor × Four Channel) : (s.setScene x).touch = s.touch := rfl

/-! `State.applyLevelRecord`: the fields it leaves. -/

@[simp] theorem State.applyLevelRecord_pending (s : State) (op : LevelOp) (mask : BitVec 4) (value : Byte) : (s.applyLevelRecord op mask value).pending = s.pending := rfl
@[simp] theorem State.applyLevelRecord_freeIndex (s : State) (op : LevelOp) (mask : BitVec 4) (value : Byte) : (s.applyLevelRecord op mask value).freeIndex = s.freeIndex := rfl
@[simp] theorem State.applyLevelRecord_loader (s : State) (op : LevelOp) (mask : BitVec 4) (value : Byte) : (s.applyLevelRecord op mask value).loader = s.loader := rfl
@[simp] theorem State.applyLevelRecord_cfg (s : State) (op : LevelOp) (mask : BitVec 4) (value : Byte) : (s.applyLevelRecord op mask value).cfg = s.cfg := rfl
@[simp] theorem State.applyLevelRecord_timer (s : State) (op : LevelOp) (mask : BitVec 4) (value : Byte) : (s.applyLevelRecord op mask value).timer = s.timer := rfl
@[simp] theorem State.applyLevelRecord_line (s : State) (op : LevelOp) (mask : BitVec 4) (value : Byte) : (s.applyLevelRecord op mask value).line = s.line := rfl
@[simp] theorem State.applyLevelRecord_engine (s : State) (op : LevelOp) (mask : BitVec 4) (value : Byte) : (s.applyLevelRecord op mask value).engine = s.engine := rfl
@[simp] theorem State.applyLevelRecord_out (s : State) (op : LevelOp) (mask : BitVec 4) (value : Byte) : (s.applyLevelRecord op mask value).out = s.out := rfl
@[simp] theorem State.applyLevelRecord_ctl (s : State) (op : LevelOp) (mask : BitVec 4) (value : Byte) : (s.applyLevelRecord op mask value).ctl = s.ctl := rfl
@[simp] theorem State.applyLevelRecord_touch (s : State) (op : LevelOp) (mask : BitVec 4) (value : Byte) : (s.applyLevelRecord op mask value).touch = s.touch := rfl

/-! `State.applyQueryRecord`: the fields it leaves. -/

@[simp] theorem State.applyQueryRecord_pending (s : State) (source : Nat) (what : What) : (s.applyQueryRecord source what).pending = s.pending := rfl
@[simp] theorem State.applyQueryRecord_freeIndex (s : State) (source : Nat) (what : What) : (s.applyQueryRecord source what).freeIndex = s.freeIndex := rfl
@[simp] theorem State.applyQueryRecord_loader (s : State) (source : Nat) (what : What) : (s.applyQueryRecord source what).loader = s.loader := rfl
@[simp] theorem State.applyQueryRecord_cfg (s : State) (source : Nat) (what : What) : (s.applyQueryRecord source what).cfg = s.cfg := rfl
@[simp] theorem State.applyQueryRecord_timer (s : State) (source : Nat) (what : What) : (s.applyQueryRecord source what).timer = s.timer := rfl
@[simp] theorem State.applyQueryRecord_engine (s : State) (source : Nat) (what : What) : (s.applyQueryRecord source what).engine = s.engine := rfl
@[simp] theorem State.applyQueryRecord_chans (s : State) (source : Nat) (what : What) : (s.applyQueryRecord source what).chans = s.chans := rfl
@[simp] theorem State.applyQueryRecord_out (s : State) (source : Nat) (what : What) : (s.applyQueryRecord source what).out = s.out := rfl
@[simp] theorem State.applyQueryRecord_ctl (s : State) (source : Nat) (what : What) : (s.applyQueryRecord source what).ctl = s.ctl := rfl
@[simp] theorem State.applyQueryRecord_touch (s : State) (source : Nat) (what : What) : (s.applyQueryRecord source what).touch = s.touch := rfl

/-! `State.applyDumpOpenRecord`: the fields it leaves. -/

@[simp] theorem State.applyDumpOpenRecord_pending (s : State) (source : Nat) : (s.applyDumpOpenRecord source).pending = s.pending := rfl
@[simp] theorem State.applyDumpOpenRecord_freeIndex (s : State) (source : Nat) : (s.applyDumpOpenRecord source).freeIndex = s.freeIndex := rfl
@[simp] theorem State.applyDumpOpenRecord_loader (s : State) (source : Nat) : (s.applyDumpOpenRecord source).loader = s.loader := rfl
@[simp] theorem State.applyDumpOpenRecord_cfg (s : State) (source : Nat) : (s.applyDumpOpenRecord source).cfg = s.cfg := rfl
@[simp] theorem State.applyDumpOpenRecord_timer (s : State) (source : Nat) : (s.applyDumpOpenRecord source).timer = s.timer := rfl
@[simp] theorem State.applyDumpOpenRecord_chans (s : State) (source : Nat) : (s.applyDumpOpenRecord source).chans = s.chans := rfl
@[simp] theorem State.applyDumpOpenRecord_out (s : State) (source : Nat) : (s.applyDumpOpenRecord source).out = s.out := rfl
@[simp] theorem State.applyDumpOpenRecord_ctl (s : State) (source : Nat) : (s.applyDumpOpenRecord source).ctl = s.ctl := rfl
@[simp] theorem State.applyDumpOpenRecord_touch (s : State) (source : Nat) : (s.applyDumpOpenRecord source).touch = s.touch := rfl

/-! `State.handShed`: the fields it leaves. -/

@[simp] theorem State.handShed_pending (s : State) (n : Num4) : (s.handShed n).pending = s.pending := rfl
@[simp] theorem State.handShed_freeIndex (s : State) (n : Num4) : (s.handShed n).freeIndex = s.freeIndex := rfl
@[simp] theorem State.handShed_loader (s : State) (n : Num4) : (s.handShed n).loader = s.loader := rfl
@[simp] theorem State.handShed_cfg (s : State) (n : Num4) : (s.handShed n).cfg = s.cfg := rfl
@[simp] theorem State.handShed_timer (s : State) (n : Num4) : (s.handShed n).timer = s.timer := rfl
@[simp] theorem State.handShed_line (s : State) (n : Num4) : (s.handShed n).line = s.line := rfl
@[simp] theorem State.handShed_engine (s : State) (n : Num4) : (s.handShed n).engine = s.engine := rfl
@[simp] theorem State.handShed_out (s : State) (n : Num4) : (s.handShed n).out = s.out := rfl
@[simp] theorem State.handShed_ctl (s : State) (n : Num4) : (s.handShed n).ctl = s.ctl := rfl
@[simp] theorem State.handShed_touch (s : State) (n : Num4) : (s.handShed n).touch = s.touch := rfl

/-! `State.outputPeriodStart`: the fields it leaves. -/

@[simp] theorem State.outputPeriodStart_pending (s : State) : (s.outputPeriodStart).pending = s.pending := rfl
@[simp] theorem State.outputPeriodStart_freeIndex (s : State) : (s.outputPeriodStart).freeIndex = s.freeIndex := rfl
@[simp] theorem State.outputPeriodStart_loader (s : State) : (s.outputPeriodStart).loader = s.loader := rfl
@[simp] theorem State.outputPeriodStart_cfg (s : State) : (s.outputPeriodStart).cfg = s.cfg := rfl
@[simp] theorem State.outputPeriodStart_timer (s : State) : (s.outputPeriodStart).timer = s.timer := rfl
@[simp] theorem State.outputPeriodStart_line (s : State) : (s.outputPeriodStart).line = s.line := rfl
@[simp] theorem State.outputPeriodStart_engine (s : State) : (s.outputPeriodStart).engine = s.engine := rfl
@[simp] theorem State.outputPeriodStart_chans (s : State) : (s.outputPeriodStart).chans = s.chans := rfl
@[simp] theorem State.outputPeriodStart_ctl (s : State) : (s.outputPeriodStart).ctl = s.ctl := rfl
@[simp] theorem State.outputPeriodStart_touch (s : State) : (s.outputPeriodStart).touch = s.touch := rfl

/-! `State.linePeriodStart`: the fields it leaves. -/

@[simp] theorem State.linePeriodStart_pending (s : State) : (s.linePeriodStart).pending = s.pending := rfl
@[simp] theorem State.linePeriodStart_freeIndex (s : State) : (s.linePeriodStart).freeIndex = s.freeIndex := rfl
@[simp] theorem State.linePeriodStart_loader (s : State) : (s.linePeriodStart).loader = s.loader := rfl
@[simp] theorem State.linePeriodStart_cfg (s : State) : (s.linePeriodStart).cfg = s.cfg := rfl
@[simp] theorem State.linePeriodStart_timer (s : State) : (s.linePeriodStart).timer = s.timer := rfl
@[simp] theorem State.linePeriodStart_engine (s : State) : (s.linePeriodStart).engine = s.engine := rfl
@[simp] theorem State.linePeriodStart_chans (s : State) : (s.linePeriodStart).chans = s.chans := rfl
@[simp] theorem State.linePeriodStart_out (s : State) : (s.linePeriodStart).out = s.out := rfl
@[simp] theorem State.linePeriodStart_ctl (s : State) : (s.linePeriodStart).ctl = s.ctl := rfl
@[simp] theorem State.linePeriodStart_touch (s : State) : (s.linePeriodStart).touch = s.touch := rfl

/-! `State.beginRound`: the fields it leaves. -/

@[simp] theorem State.beginRound_pending (s : State) : (s.beginRound).pending = s.pending := rfl
@[simp] theorem State.beginRound_freeIndex (s : State) : (s.beginRound).freeIndex = s.freeIndex := rfl
@[simp] theorem State.beginRound_loader (s : State) : (s.beginRound).loader = s.loader := rfl
@[simp] theorem State.beginRound_cfg (s : State) : (s.beginRound).cfg = s.cfg := rfl
@[simp] theorem State.beginRound_timer (s : State) : (s.beginRound).timer = s.timer := rfl
@[simp] theorem State.beginRound_line (s : State) : (s.beginRound).line = s.line := rfl
@[simp] theorem State.beginRound_engine (s : State) : (s.beginRound).engine = s.engine := rfl
@[simp] theorem State.beginRound_chans (s : State) : (s.beginRound).chans = s.chans := rfl
@[simp] theorem State.beginRound_out (s : State) : (s.beginRound).out = s.out := rfl
@[simp] theorem State.beginRound_ctl (s : State) : (s.beginRound).ctl = s.ctl := rfl

/-! `State.warmRestart`: the fields it leaves. -/

@[simp] theorem State.warmRestart_pending (s : State) : (s.warmRestart).pending = s.pending := by
  simp only [State.warmRestart]; repeat' (first | rfl | split)
@[simp] theorem State.warmRestart_freeIndex (s : State) : (s.warmRestart).freeIndex = s.freeIndex := by
  simp only [State.warmRestart]; repeat' (first | rfl | split)
@[simp] theorem State.warmRestart_loader (s : State) : (s.warmRestart).loader = s.loader := by
  simp only [State.warmRestart]; repeat' (first | rfl | split)
@[simp] theorem State.warmRestart_cfg (s : State) : (s.warmRestart).cfg = s.cfg := by
  simp only [State.warmRestart]; repeat' (first | rfl | split)
@[simp] theorem State.warmRestart_touch (s : State) : (s.warmRestart).touch = s.touch := by
  simp only [State.warmRestart]; repeat' (first | rfl | split)

/-! `State.blankIfOverdue`: the fields it leaves. -/

@[simp] theorem State.blankIfOverdue_pending (s : State) (e : Byte) : (s.blankIfOverdue e).pending = s.pending := by
  simp only [State.blankIfOverdue]; repeat' (first | rfl | split)
@[simp] theorem State.blankIfOverdue_freeIndex (s : State) (e : Byte) : (s.blankIfOverdue e).freeIndex = s.freeIndex := by
  simp only [State.blankIfOverdue]; repeat' (first | rfl | split)
@[simp] theorem State.blankIfOverdue_loader (s : State) (e : Byte) : (s.blankIfOverdue e).loader = s.loader := by
  simp only [State.blankIfOverdue]; repeat' (first | rfl | split)
@[simp] theorem State.blankIfOverdue_cfg (s : State) (e : Byte) : (s.blankIfOverdue e).cfg = s.cfg := by
  simp only [State.blankIfOverdue]; repeat' (first | rfl | split)
@[simp] theorem State.blankIfOverdue_timer (s : State) (e : Byte) : (s.blankIfOverdue e).timer = s.timer := by
  simp only [State.blankIfOverdue]; repeat' (first | rfl | split)
@[simp] theorem State.blankIfOverdue_line (s : State) (e : Byte) : (s.blankIfOverdue e).line = s.line := by
  simp only [State.blankIfOverdue]; repeat' (first | rfl | split)
@[simp] theorem State.blankIfOverdue_engine (s : State) (e : Byte) : (s.blankIfOverdue e).engine = s.engine := by
  simp only [State.blankIfOverdue]; repeat' (first | rfl | split)
@[simp] theorem State.blankIfOverdue_chans (s : State) (e : Byte) : (s.blankIfOverdue e).chans = s.chans := by
  simp only [State.blankIfOverdue]; repeat' (first | rfl | split)
@[simp] theorem State.blankIfOverdue_ctl (s : State) (e : Byte) : (s.blankIfOverdue e).ctl = s.ctl := by
  simp only [State.blankIfOverdue]; repeat' (first | rfl | split)
@[simp] theorem State.blankIfOverdue_touch (s : State) (e : Byte) : (s.blankIfOverdue e).touch = s.touch := by
  simp only [State.blankIfOverdue]; repeat' (first | rfl | split)

/-! `State.keyOperation`: the fields it leaves. -/

@[simp] theorem State.keyOperation_pending (s : State) (k : Num4) (op : LevelOp) (value : Nat) : (s.keyOperation k op value).pending = s.pending := by
  simp only [State.keyOperation]; repeat' (first | rfl | split)
@[simp] theorem State.keyOperation_freeIndex (s : State) (k : Num4) (op : LevelOp) (value : Nat) : (s.keyOperation k op value).freeIndex = s.freeIndex := by
  simp only [State.keyOperation]; repeat' (first | rfl | split)
@[simp] theorem State.keyOperation_loader (s : State) (k : Num4) (op : LevelOp) (value : Nat) : (s.keyOperation k op value).loader = s.loader := by
  simp only [State.keyOperation]; repeat' (first | rfl | split)
@[simp] theorem State.keyOperation_cfg (s : State) (k : Num4) (op : LevelOp) (value : Nat) : (s.keyOperation k op value).cfg = s.cfg := by
  simp only [State.keyOperation]; repeat' (first | rfl | split)
@[simp] theorem State.keyOperation_timer (s : State) (k : Num4) (op : LevelOp) (value : Nat) : (s.keyOperation k op value).timer = s.timer := by
  simp only [State.keyOperation]; repeat' (first | rfl | split)
@[simp] theorem State.keyOperation_engine (s : State) (k : Num4) (op : LevelOp) (value : Nat) : (s.keyOperation k op value).engine = s.engine := by
  simp only [State.keyOperation]; repeat' (first | rfl | split)
@[simp] theorem State.keyOperation_out (s : State) (k : Num4) (op : LevelOp) (value : Nat) : (s.keyOperation k op value).out = s.out := by
  simp only [State.keyOperation]; repeat' (first | rfl | split)
@[simp] theorem State.keyOperation_ctl (s : State) (k : Num4) (op : LevelOp) (value : Nat) : (s.keyOperation k op value).ctl = s.ctl := by
  simp only [State.keyOperation]; repeat' (first | rfl | split)
@[simp] theorem State.keyOperation_touch (s : State) (k : Num4) (op : LevelOp) (value : Nat) : (s.keyOperation k op value).touch = s.touch := by
  simp only [State.keyOperation]; repeat' (first | rfl | split)

/-! `State.acceptQueue`: the fields it leaves. -/

@[simp] theorem State.acceptQueue_pending (s : State) (queued boundary : Bool) (m : Message) : (s.acceptQueue queued boundary m).pending = s.pending := by
  simp only [State.acceptQueue]; repeat' (first | rfl | split)
@[simp] theorem State.acceptQueue_freeIndex (s : State) (queued boundary : Bool) (m : Message) : (s.acceptQueue queued boundary m).freeIndex = s.freeIndex := by
  simp only [State.acceptQueue]; repeat' (first | rfl | split)
@[simp] theorem State.acceptQueue_loader (s : State) (queued boundary : Bool) (m : Message) : (s.acceptQueue queued boundary m).loader = s.loader := by
  simp only [State.acceptQueue]; repeat' (first | rfl | split)
@[simp] theorem State.acceptQueue_cfg (s : State) (queued boundary : Bool) (m : Message) : (s.acceptQueue queued boundary m).cfg = s.cfg := by
  simp only [State.acceptQueue]; repeat' (first | rfl | split)
@[simp] theorem State.acceptQueue_timer (s : State) (queued boundary : Bool) (m : Message) : (s.acceptQueue queued boundary m).timer = s.timer := by
  simp only [State.acceptQueue]; repeat' (first | rfl | split)
@[simp] theorem State.acceptQueue_engine (s : State) (queued boundary : Bool) (m : Message) : (s.acceptQueue queued boundary m).engine = s.engine := by
  simp only [State.acceptQueue]; repeat' (first | rfl | split)
@[simp] theorem State.acceptQueue_chans (s : State) (queued boundary : Bool) (m : Message) : (s.acceptQueue queued boundary m).chans = s.chans := by
  simp only [State.acceptQueue]; repeat' (first | rfl | split)
@[simp] theorem State.acceptQueue_out (s : State) (queued boundary : Bool) (m : Message) : (s.acceptQueue queued boundary m).out = s.out := by
  simp only [State.acceptQueue]; repeat' (first | rfl | split)
@[simp] theorem State.acceptQueue_ctl (s : State) (queued boundary : Bool) (m : Message) : (s.acceptQueue queued boundary m).ctl = s.ctl := by
  simp only [State.acceptQueue]; repeat' (first | rfl | split)
@[simp] theorem State.acceptQueue_touch (s : State) (queued boundary : Bool) (m : Message) : (s.acceptQueue queued boundary m).touch = s.touch := by
  simp only [State.acceptQueue]; repeat' (first | rfl | split)

/-! `State.acceptPeriod`: the fields it leaves. -/

@[simp] theorem State.acceptPeriod_pending (s : State) (boundary : Bool) (m : Message) : (s.acceptPeriod boundary m).pending = s.pending := by
  simp only [State.acceptPeriod]; repeat' (first | rfl | split)
@[simp] theorem State.acceptPeriod_freeIndex (s : State) (boundary : Bool) (m : Message) : (s.acceptPeriod boundary m).freeIndex = s.freeIndex := by
  simp only [State.acceptPeriod]; repeat' (first | rfl | split)
@[simp] theorem State.acceptPeriod_loader (s : State) (boundary : Bool) (m : Message) : (s.acceptPeriod boundary m).loader = s.loader := by
  simp only [State.acceptPeriod]; repeat' (first | rfl | split)
@[simp] theorem State.acceptPeriod_cfg (s : State) (boundary : Bool) (m : Message) : (s.acceptPeriod boundary m).cfg = s.cfg := by
  simp only [State.acceptPeriod]; repeat' (first | rfl | split)
@[simp] theorem State.acceptPeriod_line (s : State) (boundary : Bool) (m : Message) : (s.acceptPeriod boundary m).line = s.line := by
  simp only [State.acceptPeriod]; repeat' (first | rfl | split)
@[simp] theorem State.acceptPeriod_engine (s : State) (boundary : Bool) (m : Message) : (s.acceptPeriod boundary m).engine = s.engine := by
  simp only [State.acceptPeriod]; repeat' (first | rfl | split)
@[simp] theorem State.acceptPeriod_chans (s : State) (boundary : Bool) (m : Message) : (s.acceptPeriod boundary m).chans = s.chans := by
  simp only [State.acceptPeriod]; repeat' (first | rfl | split)
@[simp] theorem State.acceptPeriod_out (s : State) (boundary : Bool) (m : Message) : (s.acceptPeriod boundary m).out = s.out := by
  simp only [State.acceptPeriod]; repeat' (first | rfl | split)
@[simp] theorem State.acceptPeriod_ctl (s : State) (boundary : Bool) (m : Message) : (s.acceptPeriod boundary m).ctl = s.ctl := by
  simp only [State.acceptPeriod]; repeat' (first | rfl | split)
@[simp] theorem State.acceptPeriod_touch (s : State) (boundary : Bool) (m : Message) : (s.acceptPeriod boundary m).touch = s.touch := by
  simp only [State.acceptPeriod]; repeat' (first | rfl | split)

/-! `State.handOutcome`: the fields it leaves. -/

@[simp] theorem State.handOutcome_pending (s : State) (x : Num4 × PlaceOutcome) : (s.handOutcome x).pending = s.pending := by
  simp only [State.handOutcome]; repeat' (first | rfl | split)
@[simp] theorem State.handOutcome_freeIndex (s : State) (x : Num4 × PlaceOutcome) : (s.handOutcome x).freeIndex = s.freeIndex := by
  simp only [State.handOutcome]; repeat' (first | rfl | split)
@[simp] theorem State.handOutcome_loader (s : State) (x : Num4 × PlaceOutcome) : (s.handOutcome x).loader = s.loader := by
  simp only [State.handOutcome]; repeat' (first | rfl | split)
@[simp] theorem State.handOutcome_cfg (s : State) (x : Num4 × PlaceOutcome) : (s.handOutcome x).cfg = s.cfg := by
  simp only [State.handOutcome]; repeat' (first | rfl | split)
@[simp] theorem State.handOutcome_timer (s : State) (x : Num4 × PlaceOutcome) : (s.handOutcome x).timer = s.timer := by
  simp only [State.handOutcome]; repeat' (first | rfl | split)
@[simp] theorem State.handOutcome_line (s : State) (x : Num4 × PlaceOutcome) : (s.handOutcome x).line = s.line := by
  simp only [State.handOutcome]; repeat' (first | rfl | split)
@[simp] theorem State.handOutcome_out (s : State) (x : Num4 × PlaceOutcome) : (s.handOutcome x).out = s.out := by
  simp only [State.handOutcome]; repeat' (first | rfl | split)
@[simp] theorem State.handOutcome_ctl (s : State) (x : Num4 × PlaceOutcome) : (s.handOutcome x).ctl = s.ctl := by
  simp only [State.handOutcome]; repeat' (first | rfl | split)
@[simp] theorem State.handOutcome_touch (s : State) (x : Num4 × PlaceOutcome) : (s.handOutcome x).touch = s.touch := by
  simp only [State.handOutcome]; repeat' (first | rfl | split)

/-! `State.joinWaitPeriodStart`: the fields it leaves. -/

@[simp] theorem State.joinWaitPeriodStart_pending (s : State) : (s.joinWaitPeriodStart).pending = s.pending := by
  simp only [State.joinWaitPeriodStart]; repeat' (first | rfl | split)
@[simp] theorem State.joinWaitPeriodStart_freeIndex (s : State) : (s.joinWaitPeriodStart).freeIndex = s.freeIndex := by
  simp only [State.joinWaitPeriodStart]; repeat' (first | rfl | split)
@[simp] theorem State.joinWaitPeriodStart_loader (s : State) : (s.joinWaitPeriodStart).loader = s.loader := by
  simp only [State.joinWaitPeriodStart]; repeat' (first | rfl | split)
@[simp] theorem State.joinWaitPeriodStart_cfg (s : State) : (s.joinWaitPeriodStart).cfg = s.cfg := by
  simp only [State.joinWaitPeriodStart]; repeat' (first | rfl | split)
@[simp] theorem State.joinWaitPeriodStart_timer (s : State) : (s.joinWaitPeriodStart).timer = s.timer := by
  simp only [State.joinWaitPeriodStart]; repeat' (first | rfl | split)
@[simp] theorem State.joinWaitPeriodStart_engine (s : State) : (s.joinWaitPeriodStart).engine = s.engine := by
  simp only [State.joinWaitPeriodStart]; repeat' (first | rfl | split)
@[simp] theorem State.joinWaitPeriodStart_chans (s : State) : (s.joinWaitPeriodStart).chans = s.chans := by
  simp only [State.joinWaitPeriodStart]; repeat' (first | rfl | split)
@[simp] theorem State.joinWaitPeriodStart_out (s : State) : (s.joinWaitPeriodStart).out = s.out := by
  simp only [State.joinWaitPeriodStart]; repeat' (first | rfl | split)
@[simp] theorem State.joinWaitPeriodStart_touch (s : State) : (s.joinWaitPeriodStart).touch = s.touch := by
  simp only [State.joinWaitPeriodStart]; repeat' (first | rfl | split)

/-! `State.presencePeriodStart`: the fields it leaves. -/

@[simp] theorem State.presencePeriodStart_pending (s : State) : (s.presencePeriodStart).pending = s.pending := by
  simp only [State.presencePeriodStart]; repeat' (first | rfl | split)
@[simp] theorem State.presencePeriodStart_freeIndex (s : State) : (s.presencePeriodStart).freeIndex = s.freeIndex := by
  simp only [State.presencePeriodStart]; repeat' (first | rfl | split)
@[simp] theorem State.presencePeriodStart_loader (s : State) : (s.presencePeriodStart).loader = s.loader := by
  simp only [State.presencePeriodStart]; repeat' (first | rfl | split)
@[simp] theorem State.presencePeriodStart_cfg (s : State) : (s.presencePeriodStart).cfg = s.cfg := by
  simp only [State.presencePeriodStart]; repeat' (first | rfl | split)
@[simp] theorem State.presencePeriodStart_timer (s : State) : (s.presencePeriodStart).timer = s.timer := by
  simp only [State.presencePeriodStart]; repeat' (first | rfl | split)
@[simp] theorem State.presencePeriodStart_engine (s : State) : (s.presencePeriodStart).engine = s.engine := by
  simp only [State.presencePeriodStart]; repeat' (first | rfl | split)
@[simp] theorem State.presencePeriodStart_chans (s : State) : (s.presencePeriodStart).chans = s.chans := by
  simp only [State.presencePeriodStart]; repeat' (first | rfl | split)
@[simp] theorem State.presencePeriodStart_out (s : State) : (s.presencePeriodStart).out = s.out := by
  simp only [State.presencePeriodStart]; repeat' (first | rfl | split)
@[simp] theorem State.presencePeriodStart_touch (s : State) : (s.presencePeriodStart).touch = s.touch := by
  simp only [State.presencePeriodStart]; repeat' (first | rfl | split)

/-! `State.silencePeriodStart`: the fields it leaves. -/

@[simp] theorem State.silencePeriodStart_pending (s : State) : (s.silencePeriodStart).pending = s.pending := by
  simp only [State.silencePeriodStart]; repeat' (first | rfl | split)
@[simp] theorem State.silencePeriodStart_freeIndex (s : State) : (s.silencePeriodStart).freeIndex = s.freeIndex := by
  simp only [State.silencePeriodStart]; repeat' (first | rfl | split)
@[simp] theorem State.silencePeriodStart_loader (s : State) : (s.silencePeriodStart).loader = s.loader := by
  simp only [State.silencePeriodStart]; repeat' (first | rfl | split)
@[simp] theorem State.silencePeriodStart_cfg (s : State) : (s.silencePeriodStart).cfg = s.cfg := by
  simp only [State.silencePeriodStart]; repeat' (first | rfl | split)
@[simp] theorem State.silencePeriodStart_timer (s : State) : (s.silencePeriodStart).timer = s.timer := by
  simp only [State.silencePeriodStart]; repeat' (first | rfl | split)
@[simp] theorem State.silencePeriodStart_line (s : State) : (s.silencePeriodStart).line = s.line := by
  simp only [State.silencePeriodStart]; repeat' (first | rfl | split)
@[simp] theorem State.silencePeriodStart_engine (s : State) : (s.silencePeriodStart).engine = s.engine := by
  simp only [State.silencePeriodStart]; repeat' (first | rfl | split)
@[simp] theorem State.silencePeriodStart_chans (s : State) : (s.silencePeriodStart).chans = s.chans := by
  simp only [State.silencePeriodStart]; repeat' (first | rfl | split)
@[simp] theorem State.silencePeriodStart_out (s : State) : (s.silencePeriodStart).out = s.out := by
  simp only [State.silencePeriodStart]; repeat' (first | rfl | split)
@[simp] theorem State.silencePeriodStart_touch (s : State) : (s.silencePeriodStart).touch = s.touch := by
  simp only [State.silencePeriodStart]; repeat' (first | rfl | split)

/-! `State.attemptLost`: the fields it leaves. -/

@[simp] theorem State.attemptLost_pending (s : State) : (s.attemptLost).pending = s.pending := by
  simp only [State.attemptLost]; repeat' (first | rfl | split)
@[simp] theorem State.attemptLost_freeIndex (s : State) : (s.attemptLost).freeIndex = s.freeIndex := by
  simp only [State.attemptLost]; repeat' (first | rfl | split)
@[simp] theorem State.attemptLost_loader (s : State) : (s.attemptLost).loader = s.loader := by
  simp only [State.attemptLost]; repeat' (first | rfl | split)
@[simp] theorem State.attemptLost_cfg (s : State) : (s.attemptLost).cfg = s.cfg := by
  simp only [State.attemptLost]; repeat' (first | rfl | split)
@[simp] theorem State.attemptLost_timer (s : State) : (s.attemptLost).timer = s.timer := by
  simp only [State.attemptLost]; repeat' (first | rfl | split)
@[simp] theorem State.attemptLost_engine (s : State) : (s.attemptLost).engine = s.engine := by
  simp only [State.attemptLost]; repeat' (first | rfl | split)
@[simp] theorem State.attemptLost_chans (s : State) : (s.attemptLost).chans = s.chans := by
  simp only [State.attemptLost]; repeat' (first | rfl | split)
@[simp] theorem State.attemptLost_out (s : State) : (s.attemptLost).out = s.out := by
  simp only [State.attemptLost]; repeat' (first | rfl | split)
@[simp] theorem State.attemptLost_ctl (s : State) : (s.attemptLost).ctl = s.ctl := by
  simp only [State.attemptLost]; repeat' (first | rfl | split)
@[simp] theorem State.attemptLost_touch (s : State) : (s.attemptLost).touch = s.touch := by
  simp only [State.attemptLost]; repeat' (first | rfl | split)

/-! `State.abandonSlot`: the fields it leaves. -/

@[simp] theorem State.abandonSlot_pending (s : State) (id : SlotId) : (s.abandonSlot id).pending = s.pending := by
  simp only [State.abandonSlot]; repeat' (first | rfl | split)
@[simp] theorem State.abandonSlot_freeIndex (s : State) (id : SlotId) : (s.abandonSlot id).freeIndex = s.freeIndex := by
  simp only [State.abandonSlot]; repeat' (first | rfl | split)
@[simp] theorem State.abandonSlot_loader (s : State) (id : SlotId) : (s.abandonSlot id).loader = s.loader := by
  simp only [State.abandonSlot]; repeat' (first | rfl | split)
@[simp] theorem State.abandonSlot_cfg (s : State) (id : SlotId) : (s.abandonSlot id).cfg = s.cfg := by
  simp only [State.abandonSlot]; repeat' (first | rfl | split)
@[simp] theorem State.abandonSlot_timer (s : State) (id : SlotId) : (s.abandonSlot id).timer = s.timer := by
  simp only [State.abandonSlot]; repeat' (first | rfl | split)
@[simp] theorem State.abandonSlot_chans (s : State) (id : SlotId) : (s.abandonSlot id).chans = s.chans := by
  simp only [State.abandonSlot]; repeat' (first | rfl | split)
@[simp] theorem State.abandonSlot_out (s : State) (id : SlotId) : (s.abandonSlot id).out = s.out := by
  simp only [State.abandonSlot]; repeat' (first | rfl | split)
@[simp] theorem State.abandonSlot_touch (s : State) (id : SlotId) : (s.abandonSlot id).touch = s.touch := by
  simp only [State.abandonSlot]; repeat' (first | rfl | split)

/-! `State.keyPeriodStart`: the fields it leaves. -/

@[simp] theorem State.keyPeriodStart_pending (s : State) (k : Num4) : (s.keyPeriodStart k).pending = s.pending := by
  simp only [State.keyPeriodStart]; repeat' (first | rfl | split | simp)
@[simp] theorem State.keyPeriodStart_freeIndex (s : State) (k : Num4) : (s.keyPeriodStart k).freeIndex = s.freeIndex := by
  simp only [State.keyPeriodStart]; repeat' (first | rfl | split | simp)
@[simp] theorem State.keyPeriodStart_loader (s : State) (k : Num4) : (s.keyPeriodStart k).loader = s.loader := by
  simp only [State.keyPeriodStart]; repeat' (first | rfl | split | simp)
@[simp] theorem State.keyPeriodStart_cfg (s : State) (k : Num4) : (s.keyPeriodStart k).cfg = s.cfg := by
  simp only [State.keyPeriodStart]; repeat' (first | rfl | split | simp)
@[simp] theorem State.keyPeriodStart_timer (s : State) (k : Num4) : (s.keyPeriodStart k).timer = s.timer := by
  simp only [State.keyPeriodStart]; repeat' (first | rfl | split | simp)
@[simp] theorem State.keyPeriodStart_engine (s : State) (k : Num4) : (s.keyPeriodStart k).engine = s.engine := by
  simp only [State.keyPeriodStart]; repeat' (first | rfl | split | simp)
@[simp] theorem State.keyPeriodStart_out (s : State) (k : Num4) : (s.keyPeriodStart k).out = s.out := by
  simp only [State.keyPeriodStart]; repeat' (first | rfl | split | simp)
@[simp] theorem State.keyPeriodStart_ctl (s : State) (k : Num4) : (s.keyPeriodStart k).ctl = s.ctl := by
  simp only [State.keyPeriodStart]; repeat' (first | rfl | split | simp)

/-! `State.failSlot`: the fields it leaves. -/

@[simp] theorem State.failSlot_pending (s : State) (id : SlotId) (hold : Bool) : (s.failSlot id hold).pending = s.pending := by
  simp only [State.failSlot]; repeat' (first | rfl | split | simp)
@[simp] theorem State.failSlot_freeIndex (s : State) (id : SlotId) (hold : Bool) : (s.failSlot id hold).freeIndex = s.freeIndex := by
  simp only [State.failSlot]; repeat' (first | rfl | split | simp)
@[simp] theorem State.failSlot_loader (s : State) (id : SlotId) (hold : Bool) : (s.failSlot id hold).loader = s.loader := by
  simp only [State.failSlot]; repeat' (first | rfl | split | simp)
@[simp] theorem State.failSlot_cfg (s : State) (id : SlotId) (hold : Bool) : (s.failSlot id hold).cfg = s.cfg := by
  simp only [State.failSlot]; repeat' (first | rfl | split | simp)
@[simp] theorem State.failSlot_timer (s : State) (id : SlotId) (hold : Bool) : (s.failSlot id hold).timer = s.timer := by
  simp only [State.failSlot]; repeat' (first | rfl | split | simp)
@[simp] theorem State.failSlot_chans (s : State) (id : SlotId) (hold : Bool) : (s.failSlot id hold).chans = s.chans := by
  simp only [State.failSlot]; repeat' (first | rfl | split | simp)
@[simp] theorem State.failSlot_out (s : State) (id : SlotId) (hold : Bool) : (s.failSlot id hold).out = s.out := by
  simp only [State.failSlot]; repeat' (first | rfl | split | simp)
@[simp] theorem State.failSlot_touch (s : State) (id : SlotId) (hold : Bool) : (s.failSlot id hold).touch = s.touch := by
  simp only [State.failSlot]; repeat' (first | rfl | split | simp)

/-! `State.attemptFailed`: the fields it leaves. -/

@[simp] theorem State.attemptFailed_pending (s : State) (hold : Bool) : (s.attemptFailed hold).pending = s.pending := by
  simp only [State.attemptFailed]; repeat' (first | rfl | split | simp)
@[simp] theorem State.attemptFailed_freeIndex (s : State) (hold : Bool) : (s.attemptFailed hold).freeIndex = s.freeIndex := by
  simp only [State.attemptFailed]; repeat' (first | rfl | split | simp)
@[simp] theorem State.attemptFailed_loader (s : State) (hold : Bool) : (s.attemptFailed hold).loader = s.loader := by
  simp only [State.attemptFailed]; repeat' (first | rfl | split | simp)
@[simp] theorem State.attemptFailed_cfg (s : State) (hold : Bool) : (s.attemptFailed hold).cfg = s.cfg := by
  simp only [State.attemptFailed]; repeat' (first | rfl | split | simp)
@[simp] theorem State.attemptFailed_timer (s : State) (hold : Bool) : (s.attemptFailed hold).timer = s.timer := by
  simp only [State.attemptFailed]; repeat' (first | rfl | split | simp)
@[simp] theorem State.attemptFailed_chans (s : State) (hold : Bool) : (s.attemptFailed hold).chans = s.chans := by
  simp only [State.attemptFailed]; repeat' (first | rfl | split | simp)
@[simp] theorem State.attemptFailed_out (s : State) (hold : Bool) : (s.attemptFailed hold).out = s.out := by
  simp only [State.attemptFailed]; repeat' (first | rfl | split | simp)
@[simp] theorem State.attemptFailed_touch (s : State) (hold : Bool) : (s.attemptFailed hold).touch = s.touch := by
  simp only [State.attemptFailed]; repeat' (first | rfl | split | simp)

/-! `State.slotAccepted`: the fields it leaves. -/

@[simp] theorem State.slotAccepted_pending (s : State) (a : Attempt) : (s.slotAccepted a).pending = s.pending := by
  simp only [State.slotAccepted]; repeat' (first | rfl | split)
@[simp] theorem State.slotAccepted_freeIndex (s : State) (a : Attempt) : (s.slotAccepted a).freeIndex = s.freeIndex := by
  simp only [State.slotAccepted]; repeat' (first | rfl | split)
@[simp] theorem State.slotAccepted_loader (s : State) (a : Attempt) : (s.slotAccepted a).loader = s.loader := by
  simp only [State.slotAccepted]; repeat' (first | rfl | split)
@[simp] theorem State.slotAccepted_cfg (s : State) (a : Attempt) : (s.slotAccepted a).cfg = s.cfg := by
  simp only [State.slotAccepted]; repeat' (first | rfl | split)
@[simp] theorem State.slotAccepted_out (s : State) (a : Attempt) : (s.slotAccepted a).out = s.out := by
  simp only [State.slotAccepted]; repeat' (first | rfl | split)
@[simp] theorem State.slotAccepted_touch (s : State) (a : Attempt) : (s.slotAccepted a).touch = s.touch := by
  simp only [State.slotAccepted]; repeat' (first | rfl | split)

/-! `State.acceptDecision`: the fields it leaves. -/

@[simp] theorem State.acceptDecision_pending (s : State) (boundary : Bool) (m : Message) : (s.acceptDecision boundary m).pending = s.pending := by
  simp only [State.acceptDecision]; repeat' (first | rfl | split)
@[simp] theorem State.acceptDecision_freeIndex (s : State) (boundary : Bool) (m : Message) : (s.acceptDecision boundary m).freeIndex = s.freeIndex := by
  simp only [State.acceptDecision]; repeat' (first | rfl | split)
@[simp] theorem State.acceptDecision_loader (s : State) (boundary : Bool) (m : Message) : (s.acceptDecision boundary m).loader = s.loader := by
  simp only [State.acceptDecision]; repeat' (first | rfl | split)
@[simp] theorem State.acceptDecision_cfg (s : State) (boundary : Bool) (m : Message) : (s.acceptDecision boundary m).cfg = s.cfg := by
  simp only [State.acceptDecision]; repeat' (first | rfl | split)
@[simp] theorem State.acceptDecision_timer (s : State) (boundary : Bool) (m : Message) : (s.acceptDecision boundary m).timer = s.timer := by
  simp only [State.acceptDecision]; repeat' (first | rfl | split)
@[simp] theorem State.acceptDecision_chans (s : State) (boundary : Bool) (m : Message) : (s.acceptDecision boundary m).chans = s.chans := by
  simp only [State.acceptDecision]; repeat' (first | rfl | split)
@[simp] theorem State.acceptDecision_out (s : State) (boundary : Bool) (m : Message) : (s.acceptDecision boundary m).out = s.out := by
  simp only [State.acceptDecision]; repeat' (first | rfl | split)
@[simp] theorem State.acceptDecision_touch (s : State) (boundary : Bool) (m : Message) : (s.acceptDecision boundary m).touch = s.touch := by
  simp only [State.acceptDecision]; repeat' (first | rfl | split)

/-! `State.acceptOwn`: the fields it leaves. -/

@[simp] theorem State.acceptOwn_pending (s : State) (a : Attempt) : (s.acceptOwn a).pending = s.pending := by
  simp only [State.acceptOwn]; repeat' (first | rfl | split | simp)
@[simp] theorem State.acceptOwn_freeIndex (s : State) (a : Attempt) : (s.acceptOwn a).freeIndex = s.freeIndex := by
  simp only [State.acceptOwn]; repeat' (first | rfl | split | simp)
@[simp] theorem State.acceptOwn_loader (s : State) (a : Attempt) : (s.acceptOwn a).loader = s.loader := by
  simp only [State.acceptOwn]; repeat' (first | rfl | split | simp)
@[simp] theorem State.acceptOwn_cfg (s : State) (a : Attempt) : (s.acceptOwn a).cfg = s.cfg := by
  simp only [State.acceptOwn]; repeat' (first | rfl | split | simp)
@[simp] theorem State.acceptOwn_out (s : State) (a : Attempt) : (s.acceptOwn a).out = s.out := by
  simp only [State.acceptOwn]; repeat' (first | rfl | split | simp)
@[simp] theorem State.acceptOwn_touch (s : State) (a : Attempt) : (s.acceptOwn a).touch = s.touch := by
  simp only [State.acceptOwn]; repeat' (first | rfl | split | simp)

/-! `State.controllerPeriodStart`: the fields it leaves. -/

@[simp] theorem State.controllerPeriodStart_pending (s : State) : (s.controllerPeriodStart).pending = s.pending := by simp [State.controllerPeriodStart]
@[simp] theorem State.controllerPeriodStart_freeIndex (s : State) : (s.controllerPeriodStart).freeIndex = s.freeIndex := by simp [State.controllerPeriodStart]
@[simp] theorem State.controllerPeriodStart_loader (s : State) : (s.controllerPeriodStart).loader = s.loader := by simp [State.controllerPeriodStart]
@[simp] theorem State.controllerPeriodStart_cfg (s : State) : (s.controllerPeriodStart).cfg = s.cfg := by simp [State.controllerPeriodStart]
@[simp] theorem State.controllerPeriodStart_timer (s : State) : (s.controllerPeriodStart).timer = s.timer := by simp [State.controllerPeriodStart]
@[simp] theorem State.controllerPeriodStart_engine (s : State) : (s.controllerPeriodStart).engine = s.engine := by simp [State.controllerPeriodStart]
@[simp] theorem State.controllerPeriodStart_chans (s : State) : (s.controllerPeriodStart).chans = s.chans := by simp [State.controllerPeriodStart]
@[simp] theorem State.controllerPeriodStart_out (s : State) : (s.controllerPeriodStart).out = s.out := by simp [State.controllerPeriodStart]
@[simp] theorem State.controllerPeriodStart_touch (s : State) : (s.controllerPeriodStart).touch = s.touch := by simp [State.controllerPeriodStart]

/-! `State.keySteps`: the fields it leaves. -/

@[simp] theorem State.keySteps_pending (s : State) : (s.keySteps).pending = s.pending := by simp [State.keySteps]
@[simp] theorem State.keySteps_freeIndex (s : State) : (s.keySteps).freeIndex = s.freeIndex := by simp [State.keySteps]
@[simp] theorem State.keySteps_loader (s : State) : (s.keySteps).loader = s.loader := by simp [State.keySteps]
@[simp] theorem State.keySteps_cfg (s : State) : (s.keySteps).cfg = s.cfg := by simp [State.keySteps]
@[simp] theorem State.keySteps_timer (s : State) : (s.keySteps).timer = s.timer := by simp [State.keySteps]
@[simp] theorem State.keySteps_engine (s : State) : (s.keySteps).engine = s.engine := by simp [State.keySteps]
@[simp] theorem State.keySteps_out (s : State) : (s.keySteps).out = s.out := by simp [State.keySteps]
@[simp] theorem State.keySteps_ctl (s : State) : (s.keySteps).ctl = s.ctl := by simp [State.keySteps]

/-! `State.touchPeriodStart`: the fields it leaves. -/

@[simp] theorem State.touchPeriodStart_pending (s : State) : (s.touchPeriodStart).pending = s.pending := by simp [State.touchPeriodStart]
@[simp] theorem State.touchPeriodStart_freeIndex (s : State) : (s.touchPeriodStart).freeIndex = s.freeIndex := by simp [State.touchPeriodStart]
@[simp] theorem State.touchPeriodStart_loader (s : State) : (s.touchPeriodStart).loader = s.loader := by simp [State.touchPeriodStart]
@[simp] theorem State.touchPeriodStart_cfg (s : State) : (s.touchPeriodStart).cfg = s.cfg := by simp [State.touchPeriodStart]
@[simp] theorem State.touchPeriodStart_timer (s : State) : (s.touchPeriodStart).timer = s.timer := by simp [State.touchPeriodStart]
@[simp] theorem State.touchPeriodStart_engine (s : State) : (s.touchPeriodStart).engine = s.engine := by simp [State.touchPeriodStart]
@[simp] theorem State.touchPeriodStart_out (s : State) : (s.touchPeriodStart).out = s.out := by simp [State.touchPeriodStart]
@[simp] theorem State.touchPeriodStart_ctl (s : State) : (s.touchPeriodStart).ctl = s.ctl := by simp [State.touchPeriodStart]

/-! `State.periodStart`: the fields it leaves. -/

@[simp] theorem State.periodStart_pending (s : State) (pull : Bool) : (s.periodStart pull).pending = s.pending := by simp [State.periodStart]
@[simp] theorem State.periodStart_freeIndex (s : State) (pull : Bool) : (s.periodStart pull).freeIndex = s.freeIndex := by simp [State.periodStart]
@[simp] theorem State.periodStart_loader (s : State) (pull : Bool) : (s.periodStart pull).loader = s.loader := by simp [State.periodStart]
@[simp] theorem State.periodStart_cfg (s : State) (pull : Bool) : (s.periodStart pull).cfg = s.cfg := by simp [State.periodStart]
@[simp] theorem State.periodStart_engine (s : State) (pull : Bool) : (s.periodStart pull).engine = s.engine := by simp [State.periodStart]

/-! `State.installDump`: the fields it leaves. -/

@[simp] theorem State.installDump_pending (s : State) (b : DumpBuild) : (s.installDump b).pending = s.pending := by simp [State.installDump]
@[simp] theorem State.installDump_freeIndex (s : State) (b : DumpBuild) : (s.installDump b).freeIndex = s.freeIndex := by simp [State.installDump]
@[simp] theorem State.installDump_loader (s : State) (b : DumpBuild) : (s.installDump b).loader = s.loader := by simp [State.installDump]
@[simp] theorem State.installDump_cfg (s : State) (b : DumpBuild) : (s.installDump b).cfg = s.cfg := by simp [State.installDump]
@[simp] theorem State.installDump_timer (s : State) (b : DumpBuild) : (s.installDump b).timer = s.timer := by simp [State.installDump]
@[simp] theorem State.installDump_touch (s : State) (b : DumpBuild) : (s.installDump b).touch = s.touch := by simp [State.installDump]

/-! `State.failMessage`: the fields it leaves. -/

@[simp] theorem State.failMessage_pending (s : State) (m : Reception) (othersError : Bool) : (s.failMessage m othersError).pending = s.pending := by simp [State.failMessage]
@[simp] theorem State.failMessage_freeIndex (s : State) (m : Reception) (othersError : Bool) : (s.failMessage m othersError).freeIndex = s.freeIndex := by simp [State.failMessage]
@[simp] theorem State.failMessage_loader (s : State) (m : Reception) (othersError : Bool) : (s.failMessage m othersError).loader = s.loader := by simp [State.failMessage]
@[simp] theorem State.failMessage_cfg (s : State) (m : Reception) (othersError : Bool) : (s.failMessage m othersError).cfg = s.cfg := by simp [State.failMessage]
@[simp] theorem State.failMessage_timer (s : State) (m : Reception) (othersError : Bool) : (s.failMessage m othersError).timer = s.timer := by simp [State.failMessage]
@[simp] theorem State.failMessage_chans (s : State) (m : Reception) (othersError : Bool) : (s.failMessage m othersError).chans = s.chans := by simp [State.failMessage]
@[simp] theorem State.failMessage_out (s : State) (m : Reception) (othersError : Bool) : (s.failMessage m othersError).out = s.out := by simp [State.failMessage]
@[simp] theorem State.failMessage_touch (s : State) (m : Reception) (othersError : Bool) : (s.failMessage m othersError).touch = s.touch := by simp [State.failMessage]

end Sys2Proof.Machine
end

