-- ==== Sys2Proof/Laws/Replica.lean ====
section
/-! SUPPORT. What the operations over the replica do: the Slot Map follows the Claim List (R9, R10), and what each record's
operation keeps. -/

namespace Sys2Proof.Machine

/-! ## Slot counts -/

@[simp] theorem length_addOver (m : List Nat) (a l u : Nat) : (addOver m a l u).length = m.length := by
  simp [addOver]

@[simp] theorem length_subOver (m : List Nat) (a l u : Nat) : (subOver m a l u).length = m.length := by
  simp [subOver]

theorem occupancy_addOver {m : List Nat} {k : Nat} (a l u : Nat) (hk : k < m.length) :
    occupancy (addOver m a l u) k = if a ≤ k ∧ k < a + l then occupancy m k + u else occupancy m k := by
  simp [occupancy, addOver, List.getElem?_mapIdx, List.getElem?_eq_getElem hk]

theorem occupancy_subOver (m : List Nat) (k a l u : Nat) :
    occupancy (subOver m a l u) k = if a ≤ k ∧ k < a + l then occupancy m k - u else occupancy m k := by
  by_cases hk : k < m.length
  · simp [occupancy, subOver, List.getElem?_mapIdx, List.getElem?_eq_getElem hk]
  · have hk' : m[k]? = none := List.getElem?_eq_none (by omega)
    simp [occupancy, subOver, List.getElem?_mapIdx, hk']

@[simp] theorem claimedAt_nil (k : Nat) : claimedAt [] k = 0 := rfl

theorem claimedAt_cons (c : Claim) (cs : List Claim) (k : Nat) :
    claimedAt (c :: cs) k = (if c.covers k then c.units else 0) + claimedAt cs k := by
  by_cases h : c.covers k = true <;> simp [claimedAt, h]

theorem claimedAt_append (xs ys : List Claim) (k : Nat) :
    claimedAt (xs ++ ys) k = claimedAt xs k + claimedAt ys k := by
  simp [claimedAt]

/-- The entries kept and the entries taken out share out the units of a slot. -/
theorem claimedAt_split (p : Claim → Bool) (cs : List Claim) (k : Nat) :
    claimedAt cs k = claimedAt (cs.filter fun c => !p c) k + claimedAt (cs.filter p) k := by
  induction cs with
  | nil => rfl
  | cons c cs ih =>
    by_cases h : p c = true
    · simp [h, claimedAt_cons, ih]; omega
    · simp [h, claimedAt_cons, ih]; omega

theorem Claim.covers_iff (c : Claim) (k : Nat) : c.covers k = true ↔ c.start ≤ k ∧ k < c.start + c.len := by
  simp [Claim.covers]

/-- A slot that holds units holds them for some entry that covers it. -/
theorem exists_covering {cs : List Claim} {k : Nat} (h : 0 < claimedAt cs k) : ∃ c ∈ cs, c.covers k = true := by
  induction cs with
  | nil => simp at h
  | cons c cs ih =>
    by_cases hc : c.covers k = true
    · exact ⟨c, by simp, hc⟩
    · rw [claimedAt_cons, if_neg hc, Nat.zero_add] at h
      obtain ⟨d, hd, hk⟩ := ih h
      exact ⟨d, by simp [hd], hk⟩

@[simp] theorem length_emptyMap : emptyMap.length = Config.slots := by simp [emptyMap]

theorem occupancy_emptyMap (k : Nat) : occupancy emptyMap k = 0 := by
  by_cases h : k < Config.slots
  · simp [occupancy, emptyMap, h]
  · simp [occupancy, emptyMap, h]

theorem MapAgrees.empty : MapAgrees [] emptyMap := ⟨length_emptyMap, fun k _ => by simp [occupancy_emptyMap]⟩

/-! ## Append and remove (R8, R10) -/

@[simp] theorem Replica.append_claims (r : Replica) (c : Claim) : (r.append c).claims = r.claims ++ [c] := rfl
@[simp] theorem Replica.append_roster (r : Replica) (c : Claim) : (r.append c).roster = r.roster := rfl
@[simp] theorem Replica.append_shed (r : Replica) (c : Claim) : (r.append c).shed = r.shed := rfl
@[simp] theorem Replica.append_cursor (r : Replica) (c : Claim) : (r.append c).cursor = r.cursor := rfl
@[simp] theorem Replica.append_stateCount (r : Replica) (c : Claim) : (r.append c).stateCount = r.stateCount := rfl
@[simp] theorem Replica.removeWhere_claims (p : Claim → Bool) (r : Replica) :
    (r.removeWhere p).claims = r.claims.filter fun c => !p c := rfl
@[simp] theorem Replica.removeWhere_roster (p : Claim → Bool) (r : Replica) : (r.removeWhere p).roster = r.roster := rfl
@[simp] theorem Replica.removeWhere_shed (p : Claim → Bool) (r : Replica) : (r.removeWhere p).shed = r.shed := rfl
@[simp] theorem Replica.removeWhere_cursor (p : Claim → Bool) (r : Replica) : (r.removeWhere p).cursor = r.cursor := rfl
@[simp] theorem Replica.removeWhere_stateCount (p : Claim → Bool) (r : Replica) :
    (r.removeWhere p).stateCount = r.stateCount := rfl
@[simp] theorem Replica.evictStation_roster (r : Replica) (st : Nat) :
    (r.evictStation st).roster = r.roster.filter fun m => m.station != st := rfl
@[simp] theorem Replica.evictStation_claims (r : Replica) (st : Nat) :
    (r.evictStation st).claims = r.claims.filter fun c => !(c.station == st) := rfl
@[simp] theorem Replica.evictStation_shed (r : Replica) (st : Nat) : (r.evictStation st).shed = r.shed := rfl
@[simp] theorem Replica.evictStation_cursor (r : Replica) (st : Nat) : (r.evictStation st).cursor = r.cursor := rfl
@[simp] theorem Replica.evictStation_stateCount (r : Replica) (st : Nat) :
    (r.evictStation st).stateCount = r.stateCount := rfl

theorem MapAgrees.append {r : Replica} {c : Claim} (h : MapAgrees r.claims r.slotMap) :
    MapAgrees (r.append c).claims (r.append c).slotMap := by
  obtain ⟨hl, ho⟩ := h
  refine ⟨by simpa [Replica.append] using hl, fun k hk => ?_⟩
  have hk' : k < r.slotMap.length := by omega
  simp only [Replica.append, occupancy_addOver _ _ _ hk', claimedAt_append, claimedAt_cons, claimedAt_nil, ho k hk,
    Claim.covers_iff]
  split <;> omega

theorem length_subAll (cs : List Claim) : ∀ m : List Nat,
    (cs.foldl (fun m c => subOver m c.start c.len c.units) m).length = m.length := by
  induction cs with
  | nil => intro m; rfl
  | cons c cs ih => intro m; simp [ih]

theorem occupancy_subAll (cs : List Claim) (k : Nat) : ∀ m : List Nat,
    occupancy (cs.foldl (fun m c => subOver m c.start c.len c.units) m) k = occupancy m k - claimedAt cs k := by
  induction cs with
  | nil => intro m; simp
  | cons c cs ih =>
    intro m
    rw [List.foldl_cons, ih, occupancy_subOver, claimedAt_cons]
    by_cases h : c.covers k = true
    · rw [if_pos ((c.covers_iff k).mp h), if_pos h]; omega
    · rw [if_neg (fun hh => h ((c.covers_iff k).mpr hh)), if_neg h]; omega

theorem MapAgrees.removeWhere {r : Replica} (p : Claim → Bool) (h : MapAgrees r.claims r.slotMap) :
    MapAgrees (r.removeWhere p).claims (r.removeWhere p).slotMap := by
  obtain ⟨hl, ho⟩ := h
  refine ⟨by simpa [Replica.removeWhere, length_subAll] using hl, fun k hk => ?_⟩
  simp only [Replica.removeWhere, occupancy_subAll, ho k hk]
  have := claimedAt_split p r.claims k
  omega

/-- A removal raises no slot. -/
theorem occupancy_removeWhere_le (r : Replica) (p : Claim → Bool) (k : Nat) :
    occupancy (r.removeWhere p).slotMap k ≤ occupancy r.slotMap k := by
  simp only [Replica.removeWhere, occupancy_subAll]
  omega

/-! ## PLACE entries (R65 to R68) -/

/-- An entry leaves the Roster, the shed level, the cursor and the state count, and the Slot Map follows. -/
theorem placeEntry_spec (guard budget source : Nat) (r : Replica) (p : PlaceEntry) :
    let x := placeEntry guard budget source r p
    (MapAgrees r.claims r.slotMap → MapAgrees x.1.claims x.1.slotMap) ∧
      x.1.roster = r.roster ∧ x.1.shed = r.shed ∧ x.1.cursor = r.cursor ∧ x.1.stateCount = r.stateCount := by
  intro x
  simp only [x, placeEntry]
  by_cases hz : p.len = 0
  · rw [if_pos hz]
    by_cases hm : (!isMember r.roster source) = true
    · rw [if_pos hm]; exact ⟨id, rfl, rfl, rfl, rfl⟩
    · rw [if_neg hm]
      cases claimOf r.claims source p.channel with
      | none => exact ⟨id, rfl, rfl, rfl, rfl⟩
      | some c => exact ⟨fun h => h.removeWhere _, rfl, rfl, rfl, rfl⟩
  · rw [if_neg hz]
    cases judgePlacing guard budget r source p with
    | some w => exact ⟨id, rfl, rfl, rfl, rfl⟩
    | none => exact ⟨fun h => (h.removeWhere _).append, rfl, rfl, rfl, rfl⟩

/-- The same of a whole PLACE. -/
theorem placeEntries_spec (guard budget source : Nat) (ps : List PlaceEntry) : ∀ r : Replica,
    let x := placeEntries guard budget source r ps
    (MapAgrees r.claims r.slotMap → MapAgrees x.1.claims x.1.slotMap) ∧
      x.1.roster = r.roster ∧ x.1.shed = r.shed ∧ x.1.cursor = r.cursor ∧ x.1.stateCount = r.stateCount := by
  induction ps with
  | nil => intro r; exact ⟨id, rfl, rfl, rfl, rfl⟩
  | cons p ps ih =>
    intro r
    obtain ⟨h1, h2, h3, h4, h5⟩ := placeEntry_spec guard budget source r p
    obtain ⟨g1, g2, g3, g4, g5⟩ := ih (placeEntry guard budget source r p).1
    exact ⟨fun h => g1 (h1 h), g2.trans h2, g3.trans h3, g4.trans h4, g5.trans h5⟩

/-! ## EVICT (R72) -/

theorem MapAgrees.evictStation {r : Replica} (st : Nat) (h : MapAgrees r.claims r.slotMap) :
    MapAgrees (r.evictStation st).claims (r.evictStation st).slotMap := h.removeWhere _

/-- The pairs of an EVICT take entries out of the Roster and the Claim List, and nothing else. -/
theorem evictPairs_spec (own : Nat) (ps : List Pair) : ∀ r : Replica,
    let x := evictPairs own r ps
    (MapAgrees r.claims r.slotMap → MapAgrees x.1.claims x.1.slotMap) ∧
      x.1.roster.Sublist r.roster ∧ x.1.claims.Sublist r.claims ∧
      (∀ k, occupancy x.1.slotMap k ≤ occupancy r.slotMap k) ∧
      x.1.shed = r.shed ∧ x.1.cursor = r.cursor ∧ x.1.stateCount = r.stateCount := by
  induction ps with
  | nil =>
    intro r
    exact ⟨id, List.Sublist.refl _, List.Sublist.refl _, fun _ => Nat.le_refl _, rfl, rfl, rfl⟩
  | cons p ps ih =>
    intro r
    simp only [evictPairs]
    by_cases hp : pairMatches r.roster p = true
    · rw [if_pos hp]
      by_cases ho : p.station.toNat = own
      · rw [if_pos ho]
        exact ⟨fun h => h.evictStation own, List.filter_sublist, List.filter_sublist,
          occupancy_removeWhere_le r _, rfl, rfl, rfl⟩
      · rw [if_neg ho]
        obtain ⟨h1, h2, h3, h4, h5, h6, h7⟩ := ih (r.evictStation p.station.toNat)
        exact ⟨fun h => h1 (h.evictStation _), h2.trans List.filter_sublist, h3.trans List.filter_sublist,
          fun k => (h4 k).trans (occupancy_removeWhere_le r _ k), h5, h6, h7⟩
    · rw [if_neg hp]
      exact ih r

/-! ## SHED (R75) -/

theorem coversOver_iff (m : List Nat) (budget : Nat) (c : Claim) :
    coversOver m budget c = true ↔ ∃ k < Config.slots, c.covers k = true ∧ budget < occupancy m k := by
  simp [coversOver]

/-- What the fold of the choice comes to: nothing when the start is nothing and the list is empty, otherwise one of them. -/
theorem foldl_choice_mem (cs : List Claim) : ∀ (best : Option Claim) (c : Claim),
    cs.foldl
        (fun best c =>
          match best with
          | none => some c
          | some b => if b.cls ≤ c.cls then some c else some b)
        best = some c → best = some c ∨ c ∈ cs := by
  induction cs with
  | nil => intro best c h; exact Or.inl h
  | cons d cs ih =>
    intro best c h
    rw [List.foldl_cons] at h
    rcases ih _ _ h with h' | h'
    · cases best with
      | none => cases h'; exact Or.inr (by simp)
      | some b =>
        dsimp only at h'
        split at h' <;> cases h'
        · exact Or.inr (by simp)
        · exact Or.inl rfl
    · exact Or.inr (by simp [h'])

theorem foldl_choice_some (cs : List Claim) : ∀ b : Claim, ∃ c,
    cs.foldl
        (fun best c =>
          match best with
          | none => some c
          | some b => if b.cls ≤ c.cls then some c else some b)
        (some b) = some c := by
  induction cs with
  | nil => intro b; exact ⟨b, rfl⟩
  | cons d cs ih =>
    intro b
    rw [List.foldl_cons]
    by_cases h : b.cls ≤ d.cls
    · simp only [h, if_true]; exact ih d
    · simp only [h, if_false]; exact ih b

theorem shedChoice_mem {m : List Nat} {budget : Nat} {cs : List Claim} {c : Claim}
    (h : shedChoice m budget cs = some c) : c ∈ cs ∧ coversOver m budget c = true := by
  rcases foldl_choice_mem _ _ _ h with h' | h'
  · cases h'
  · simpa using h'

theorem shedChoice_none {m : List Nat} {budget : Nat} {cs : List Claim} (h : shedChoice m budget cs = none) :
    ∀ c ∈ cs, coversOver m budget c = false := by
  intro c hc
  by_contra hn
  have hmem : c ∈ cs.filter (coversOver m budget) := List.mem_filter.mpr ⟨hc, by simpa using hn⟩
  unfold shedChoice at h
  revert h hmem
  cases cs.filter (coversOver m budget) with
  | nil => intro _ hm; cases hm
  | cons d ds =>
    intro h _
    rw [List.foldl_cons] at h
    obtain ⟨x, hx⟩ := foldl_choice_some ds d
    exact absurd (hx.symm.trans h) (by simp)

/-- Shedding takes entries out of the Claim List until no slot holds more than the budget, and nothing else. -/
theorem shedLoop_spec (budget : Nat) : ∀ (n : Nat) (r : Replica),
    let x := shedLoop budget n r
    (MapAgrees r.claims r.slotMap → MapAgrees x.1.claims x.1.slotMap) ∧
      (MapAgrees r.claims r.slotMap → r.claims.length ≤ n → MapWithin budget x.1.slotMap) ∧
      x.1.claims.Sublist r.claims ∧ (∀ c ∈ x.2, c ∈ r.claims) ∧
      x.1.roster = r.roster ∧ x.1.shed = r.shed ∧ x.1.cursor = r.cursor ∧ x.1.stateCount = r.stateCount := by
  have within_of_none : ∀ r : Replica, (∀ c ∈ r.claims, coversOver r.slotMap budget c = false) →
      MapAgrees r.claims r.slotMap → MapWithin budget r.slotMap := by
    intro r hno h k hk
    by_contra hgt
    have hpos : 0 < claimedAt r.claims k := by have := h.2 k hk; omega
    obtain ⟨c, hc, hcov⟩ := exists_covering hpos
    have := (coversOver_iff r.slotMap budget c).mpr ⟨k, hk, hcov, by omega⟩
    rw [hno c hc] at this
    cases this
  intro n
  induction n with
  | zero =>
    intro r
    refine ⟨id, fun h hl => within_of_none r ?_ h, List.Sublist.refl _, by simp [shedLoop], rfl, rfl, rfl, rfl⟩
    have : r.claims = [] := List.eq_nil_of_length_eq_zero (by omega)
    simp [this]
  | succ n ih =>
    intro r
    simp only [shedLoop]
    cases hc : shedChoice r.slotMap budget r.claims with
    | none =>
      exact ⟨id, fun h _ => within_of_none r (shedChoice_none hc) h, List.Sublist.refl _, by simp, rfl, rfl, rfl, rfl⟩
    | some c =>
      obtain ⟨h1, h2, h3, h4, h5, h6, h7, h8⟩ := ih (r.removeWhere (Claim.isFor c.station c.channel))
      have hmem := (shedChoice_mem hc).1
      refine ⟨fun h => h1 (h.removeWhere _), fun h hl => h2 (h.removeWhere _) ?_, h3.trans List.filter_sublist,
        fun d hd => ?_, h5, h6, h7, h8⟩
      · have : (r.claims.filter fun d => !Claim.isFor c.station c.channel d).length < r.claims.length := by
          apply List.length_filter_lt_length_iff_exists.mpr
          exact ⟨c, hmem, by simp [Claim.isFor]⟩
        simp only [Replica.removeWhere_claims]
        omega
      · rcases List.mem_cons.mp hd with rfl | hd
        · exact hmem
        · exact (List.mem_filter.mp (h4 d hd)).1

/-! ## The held check (R14, R15) -/

/-- The state check is of the claims, the Roster and the shed level: cursor and state count are not in it (R14). -/
theorem stateCheck_congr (r : Replica) (c : Cursor) (n : Word16) :
    stateCheck { r with cursor := c, stateCount := n } = stateCheck r := rfl

@[simp] theorem recount_heldCheck (e : Engine) (r : Replica) :
    (e.recount r).heldCheck = stateCheck (e.recount r).replica := rfl

@[simp] theorem recount_replica (e : Engine) (r : Replica) :
    (e.recount r).replica = { r with stateCount := r.stateCount + 1 } := rfl

/-! ## The Roster (R71) -/

theorem isMember_iff (ms : List Member) (st : Nat) : isMember ms st = true ↔ ∃ m ∈ ms, m.station = st := by
  simp [isMember]

/-- A member's own entry, where its number is held once. -/
theorem memberOf_eq_some {ms : List Member} {m : Member} (h : ms.Pairwise fun a b => a.station < b.station)
    (hm : m ∈ ms) : memberOf ms m.station = some m := by
  induction ms with
  | nil => cases hm
  | cons x xs ih =>
    rw [List.pairwise_cons] at h
    unfold memberOf
    rw [List.find?_cons]
    rcases List.mem_cons.mp hm with rfl | hm
    · simp
    · have : (x.station == m.station) = false := by
        have := h.1 m hm
        simp only [beq_eq_false_iff_ne]
        omega
      rw [this]
      exact ih h.2 hm

/-- A member's entry is some entry of the Roster with its number. -/
theorem memberOf_some {ms : List Member} {st : Nat} {m : Member} (h : memberOf ms st = some m) :
    m ∈ ms ∧ m.station = st := by
  unfold memberOf at h
  exact ⟨List.mem_of_find?_eq_some h, by simpa using List.find?_some h⟩

theorem memberOf_isSome (ms : List Member) (st : Nat) : (memberOf ms st).isSome = isMember ms st := by
  unfold memberOf isMember
  rw [Bool.eq_iff_iff, List.find?_isSome, List.any_eq_true]

/-- The own incarnation read from a Roster that holds the station is that of its entry (R118, R119). -/
theorem memberOf_incarnationIn {own : Nat} {ms : List Member} (h : isMember ms own = true) :
    memberOf ms own = some { station := own, incarnation := incarnationIn own ms } := by
  unfold incarnationIn
  cases hm : memberOf ms own with
  | none =>
    rw [← memberOf_isSome, hm] at h
    cases h
  | some m => rw [← (memberOf_some hm).2]

/-! ## The silence counters (R118, R121) -/

/-- The counters are those of these stations, one each. -/
def CountersFor (own : Nat) (ms : List Member) (ss : List Silence) : Prop :=
  (ss.map (·.station)).Nodup ∧ ∀ st, (∃ x ∈ ss, x.station = st) ↔ isMember ms st = true ∧ st ≠ own

/-- At entry to RUN (R118). -/
theorem freshSilence_counters {own : Nat} {ms : List Member} (h : RosterLaw ms) :
    CountersFor own ms (freshSilence own ms) := by
  unfold freshSilence
  constructor
  · rw [List.map_map]
    refine List.Nodup.map_on ?_ ((h.1.imp fun hab he => ?_ : ms.Nodup).filter _)
    · intro a ha b hb hab
      have ha' := memberOf_eq_some h.1 (List.mem_filter.mp ha).1
      have hb' := memberOf_eq_some h.1 (List.mem_filter.mp hb).1
      have : a.station = b.station := hab
      rw [this, hb'] at ha'
      cases ha'
      rfl
    · subst he
      exact absurd hab (Nat.lt_irrefl _)
  · intro st
    simp only [List.mem_map, List.mem_filter, bne_iff_ne, isMember_iff]
    constructor
    · rintro ⟨x, ⟨m, ⟨hm, hn⟩, rfl⟩, rfl⟩
      exact ⟨⟨m, hm, rfl⟩, hn⟩
    · rintro ⟨⟨m, hm, rfl⟩, hn⟩
      exact ⟨_, ⟨m, ⟨hm, hn⟩, rfl⟩, rfl⟩

/-- A change of counts alone keeps the stations (R58, R121). -/
theorem CountersFor.map {own : Nat} {ms : List Member} {ss : List Silence} {f : Silence → Silence}
    (h : CountersFor own ms ss) (hf : ∀ x, (f x).station = x.station) : CountersFor own ms (ss.map f) := by
  constructor
  · rw [List.map_map, show ((fun x : Silence => x.station) ∘ f) = (fun x => x.station) from funext hf]
    exact h.1
  · intro st
    rw [← h.2 st]
    constructor
    · rintro ⟨x, hx, he⟩
      obtain ⟨y, hy, rfl⟩ := List.mem_map.mp hx
      exact ⟨y, hy, by rw [← he, hf]⟩
    · rintro ⟨y, hy, he⟩
      exact ⟨f y, List.mem_map.mpr ⟨y, hy, rfl⟩, by rw [hf, he]⟩

/-- The stations that have left the Roster lose their counters (R72, R121). -/
theorem CountersFor.prune {own : Nat} {ms ms' : List Member} {ss : List Silence} (h : CountersFor own ms ss)
    (hs : ∀ st, isMember ms' st = true → isMember ms st = true) : CountersFor own ms' (pruneSilence ms' ss) := by
  unfold pruneSilence
  constructor
  · exact h.1.sublist (List.filter_sublist.map _)
  · intro st
    simp only [List.mem_filter]
    constructor
    · rintro ⟨x, ⟨hx, hm⟩, rfl⟩
      exact ⟨hm, ((h.2 _).mp ⟨x, hx, rfl⟩).2⟩
    · rintro ⟨hm, hn⟩
      obtain ⟨x, hx, rfl⟩ := (h.2 st).mpr ⟨hs st hm, hn⟩
      exact ⟨x, ⟨hx, hm⟩, rfl⟩

/-- A new entry stands at the place its number gives: the Roster stays in station order. -/
theorem insertMember_spec (x : Member) (ms : List Member) :
    (∀ m, m ∈ insertMember x ms ↔ m = x ∨ m ∈ ms) ∧
      (ms.Pairwise (fun a b => a.station < b.station) → isMember ms x.station = false →
        (insertMember x ms).Pairwise (fun a b => a.station < b.station)) := by
  induction ms with
  | nil => simp [insertMember]
  | cons y ys ih =>
    simp only [insertMember]
    by_cases h : x.station < y.station
    · rw [if_pos h]
      refine ⟨by simp, fun hp _ => ?_⟩
      rw [List.pairwise_cons] at hp
      refine List.pairwise_cons.mpr ⟨fun z hz => ?_, List.pairwise_cons.mpr hp⟩
      rcases List.mem_cons.mp hz with rfl | hz
      · exact h
      · exact h.trans (hp.1 z hz)
    · rw [if_neg h]
      refine ⟨fun m => by simp only [List.mem_cons, ih.1 m]; tauto, fun hp hn => ?_⟩
      rw [List.pairwise_cons] at hp
      have hne : x.station ≠ y.station := by
        intro he
        have : isMember (y :: ys) x.station = true := (isMember_iff _ _).mpr ⟨y, by simp, he.symm⟩
        rw [hn] at this
        cases this
      have hn' : isMember ys x.station = false := by
        cases hh : isMember ys x.station with
        | false => rfl
        | true =>
          obtain ⟨m, hm, hs⟩ := (isMember_iff _ _).mp hh
          have : isMember (y :: ys) x.station = true := (isMember_iff _ _).mpr ⟨m, by simp [hm], hs⟩
          rw [hn] at this
          cases this
      refine List.pairwise_cons.mpr ⟨fun z hz => ?_, ih.2 hp.2 hn'⟩
      rcases (ih.1 z).mp hz with rfl | hz
      · omega
      · exact hp.1 z hz

/-- A joiner's Roster keeps its order and its range, and gains the joiner. -/
theorem joinRoster_law {st : Nat} {ms : List Member} (h : RosterLaw ms) (h1 : 1 ≤ st) (h2 : st ≤ 30) :
    RosterLaw (joinRoster st ms) ∧ isMember (joinRoster st ms) st = true ∧
      ∀ x, isMember ms x = true → isMember (joinRoster st ms) x = true := by
  unfold joinRoster
  by_cases hm : isMember ms st = true
  · rw [if_pos hm]
    have hst : ∀ m : Member,
        (if m.station = st then { m with incarnation := m.incarnation + 1 } else m : Member).station = m.station := by
      intro m; split <;> rfl
    refine ⟨⟨?_, ?_⟩, ?_, ?_⟩
    · rw [List.pairwise_map]
      exact h.1.imp (by intro a b hab; rw [hst, hst]; exact hab)
    · intro m hm'
      obtain ⟨x, hx, rfl⟩ := List.mem_map.mp hm'
      rw [hst]
      exact h.2 x hx
    · obtain ⟨m, hm', hs⟩ := (isMember_iff _ _).mp hm
      exact (isMember_iff _ _).mpr ⟨_, List.mem_map.mpr ⟨m, hm', rfl⟩, by rw [hst]; exact hs⟩
    · intro x hx
      obtain ⟨m, hm', hs⟩ := (isMember_iff _ _).mp hx
      exact (isMember_iff _ _).mpr ⟨_, List.mem_map.mpr ⟨m, hm', rfl⟩, by rw [hst]; exact hs⟩
  · rw [if_neg hm]
    have hn : isMember ms st = false := by simpa using hm
    obtain ⟨i1, i2⟩ := insertMember_spec { station := st, incarnation := 0 } ms
    refine ⟨⟨i2 h.1 hn, ?_⟩, (isMember_iff _ _).mpr ⟨_, (i1 _).mpr (Or.inl rfl), rfl⟩, ?_⟩
    · intro m hm'
      rcases (i1 m).mp hm' with rfl | hm'
      · exact ⟨h1, h2⟩
      · exact h.2 m hm'
    · intro x hx
      obtain ⟨m, hm', hs⟩ := (isMember_iff _ _).mp hx
      exact (isMember_iff _ _).mpr ⟨m, (i1 m).mpr (Or.inr hm'), hs⟩

/-- A joiner's Roster holds the joiner and the members there were. -/
theorem isMember_joinRoster (st x : Nat) (ms : List Member) :
    isMember (joinRoster st ms) x = true ↔ isMember ms x = true ∨ x = st := by
  have inc : ∀ m : Member,
      (if m.station = st then { m with incarnation := m.incarnation + 1 } else m : Member).station = m.station := by
    intro m; split <;> rfl
  unfold joinRoster
  by_cases hm : isMember ms st = true
  · rw [if_pos hm]
    simp only [isMember_iff, List.mem_map] at hm ⊢
    constructor
    · rintro ⟨m, ⟨y, hy, rfl⟩, rfl⟩
      exact Or.inl ⟨y, hy, (inc y).symm⟩
    · rintro (⟨y, hy, rfl⟩ | rfl)
      · exact ⟨_, ⟨y, hy, rfl⟩, inc y⟩
      · obtain ⟨y, hy, rfl⟩ := hm
        exact ⟨_, ⟨y, hy, rfl⟩, inc y⟩
  · rw [if_neg hm]
    simp only [isMember_iff, (insertMember_spec _ ms).1]
    constructor
    · rintro ⟨m, rfl | hm, rfl⟩
      · exact Or.inr rfl
      · exact Or.inl ⟨m, hm, rfl⟩
    · rintro (⟨m, hm, rfl⟩ | rfl)
      · exact ⟨m, Or.inr hm, rfl⟩
      · exact ⟨_, Or.inl rfl, rfl⟩

/-- A joiner that enters the Roster gains a counter (R71, R121). -/
theorem CountersFor.join {own source : Nat} {ms : List Member} {ss : List Silence} (h : CountersFor own ms ss) :
    CountersFor own (joinRoster source ms) (addSilence own source ms ss) := by
  unfold addSilence
  by_cases hc : (isMember ms source || source == own) = true
  · rw [if_pos hc]
    refine ⟨h.1, fun st => ?_⟩
    rw [h.2 st, isMember_joinRoster]
    simp only [Bool.or_eq_true, beq_iff_eq] at hc
    constructor
    · rintro ⟨a, b⟩
      exact ⟨Or.inl a, b⟩
    · rintro ⟨a | rfl, b⟩
      · exact ⟨a, b⟩
      · exact ⟨hc.resolve_right b, b⟩
  · rw [if_neg hc]
    simp only [Bool.or_eq_true, beq_iff_eq, not_or] at hc
    constructor
    · rw [List.map_append, List.nodup_append]
      refine ⟨h.1, by simp, ?_⟩
      intro a ha b hb hab
      simp only [List.map_cons, List.map_nil, List.mem_singleton] at hb
      subst hab
      subst hb
      obtain ⟨x, hx, he⟩ := List.mem_map.mp ha
      exact hc.1 ((h.2 _).mp ⟨x, hx, he⟩).1
    · intro st
      rw [isMember_joinRoster]
      simp only [List.mem_append, List.mem_singleton]
      constructor
      · rintro ⟨x, hx | rfl, rfl⟩
        · exact ⟨Or.inl ((h.2 _).mp ⟨x, hx, rfl⟩).1, ((h.2 _).mp ⟨x, hx, rfl⟩).2⟩
        · exact ⟨Or.inr rfl, hc.2⟩
      · rintro ⟨hm | rfl, hn⟩
        · obtain ⟨x, hx, rfl⟩ := (h.2 st).mpr ⟨hm, hn⟩
          exact ⟨x, Or.inl hx, rfl⟩
        · exact ⟨_, Or.inr rfl, rfl⟩

end Sys2Proof.Machine
end

