-- ==== Sys2Proof/Laws/Search.lean ====
section
/-! SUPPORT. The placement search (R16 to R18): what it finds fits, and when it finds nothing nothing does. -/

namespace Sys2Proof.Machine

/-- Fit (R17). -/
theorem fits_iff (occ : List Nat) (budget units guard start len : Nat) :
    fits occ budget units guard start len = true ↔
      guard ≤ start ∧ start + len ≤ Config.slots - guard ∧
        ∀ k, start ≤ k → k < start + len → occupancy occ k + units ≤ budget := by
  simp only [fits, Bool.and_eq_true, decide_eq_true_eq, List.all_eq_true, List.mem_range, and_assoc]
  constructor
  · rintro ⟨h1, h2, h3⟩
    refine ⟨h1, h2, fun k hk hk' => ?_⟩
    have h := h3 (k - start) (by omega)
    have e : start + (k - start) = k := by omega
    rwa [e] at h
  · rintro ⟨h1, h2, h3⟩
    exact ⟨h1, h2, fun i hi => h3 (start + i) (by omega) (by omega)⟩

/-- The counts the search judges: those of the map less the channel's own draw over its current entry (R16). -/
theorem occupancy_searchMap (m : List Nat) (units k : Nat) (current : Option Placement) :
    occupancy (searchMap m units current) k =
      occupancy m k -
        match current with
        | some p => if p.start ≤ k ∧ k < p.start + p.len then units else 0
        | none => 0 := by
  cases current with
  | none => rfl
  | some p =>
    simp only [searchMap, occupancy_subOver]
    split <;> simp

/-- First fit gives the lowest start that fits, and none when no start does (R18). -/
theorem firstFit_spec {occ : List Nat} {budget units guard len : Nat} (hl : 1 ≤ len) :
    (firstFit occ budget units guard len = none ↔ ∀ s, fits occ budget units guard s len = false) ∧
      ∀ s, firstFit occ budget units guard len = some s →
        fits occ budget units guard s len = true ∧ ∀ s' < s, fits occ budget units guard s' len = false := by
  have inRange : ∀ s, fits occ budget units guard s len = true →
      s ∈ (List.range (Config.slots - guard - len + 1 - guard)).map (· + guard) := by
    intro s h
    obtain ⟨h1, h2, _⟩ := (fits_iff _ _ _ _ _ _).mp h
    exact List.mem_map.mpr ⟨s - guard, List.mem_range.mpr (by omega), by omega⟩
  refine ⟨?_, ?_⟩
  · rw [firstFit, List.find?_eq_none]
    constructor
    · intro h s
      cases hs : fits occ budget units guard s len with
      | false => rfl
      | true => exact absurd hs (h s (inRange s hs))
    · intro h x _
      rw [h x]
      exact Bool.false_ne_true
  · intro s h
    unfold firstFit at h
    refine ⟨List.find?_some (p := fun st => fits occ budget units guard st len) h, fun s' hs' => ?_⟩
    cases hf : fits occ budget units guard s' len with
    | false => rfl
    | true =>
      exfalso
      obtain ⟨_, as, bs, hab, hno⟩ := List.find?_eq_some_iff_append.mp h
      have hm := inRange s' hf
      rw [hab] at hm
      have hsorted : ((List.range (Config.slots - guard - len + 1 - guard)).map (· + guard)).Pairwise (· < ·) := by
        rw [List.pairwise_map]
        exact List.pairwise_lt_range.imp (by intro a b hab'; omega)
      rw [hab, List.pairwise_append] at hsorted
      rcases List.mem_append.mp hm with hm | hm
      · have := hno s' hm
        simp [hf] at this
      · rcases List.mem_cons.mp hm with rfl | hm
        · omega
        · have := (List.pairwise_cons.mp hsorted.2.1).1 s' hm
          omega

/-- Keep-place, then first fit, at one length (R18). -/
theorem placeAt_spec {occ : List Nat} {budget units guard len : Nat} {current : Option Placement} (hl : 1 ≤ len) :
    (placeAt occ budget units guard len current = none ↔ ∀ s, fits occ budget units guard s len = false) ∧
      ∀ p, placeAt occ budget units guard len current = some p →
        p.len = len ∧ fits occ budget units guard p.start len = true ∧
          (∀ q, current = some q → fits occ budget units guard q.start len = true → p.start = q.start) ∧
          ((∀ q, current = some q → fits occ budget units guard q.start len = false) →
            ∀ s' < p.start, fits occ budget units guard s' len = false) := by
  obtain ⟨hn, hs⟩ := firstFit_spec (occ := occ) (budget := budget) (units := units) (guard := guard) hl
  have first : ∀ p : Placement,
      (firstFit occ budget units guard len).map (fun st => ({ start := st, len := len } : Placement)) = some p →
        p.len = len ∧ fits occ budget units guard p.start len = true ∧
          ∀ s' < p.start, fits occ budget units guard s' len = false := by
    intro p hp
    obtain ⟨st, h1, rfl⟩ := Option.map_eq_some_iff.mp hp
    exact ⟨rfl, (hs st h1).1, (hs st h1).2⟩
  unfold placeAt
  cases current with
  | none =>
    refine ⟨by simp [hn], fun p hp => ?_⟩
    obtain ⟨h1, h2, h3⟩ := first p hp
    exact ⟨h1, h2, fun q hq => (by cases hq), fun _ => h3⟩
  | some c =>
    dsimp only
    by_cases hc : fits occ budget units guard c.start len = true
    · rw [if_pos hc]
      refine ⟨⟨fun h => (by cases h), fun h => (by rw [h c.start] at hc; cases hc)⟩, ?_⟩
      intro p hp
      cases hp
      refine ⟨rfl, hc, fun q hq _ => (by cases hq; rfl), fun h => ?_⟩
      have := h c rfl
      rw [hc] at this
      cases this
    · rw [if_neg hc]
      refine ⟨by simp [hn], fun p hp => ?_⟩
      obtain ⟨h1, h2, h3⟩ := first p hp
      refine ⟨h1, h2, fun q hq hf => ?_, fun _ => h3⟩
      cases hq
      exact absurd hf hc

/-- The search from `n` down: the greatest length at which anything fits (R18). -/
theorem searchDown_spec (occ : List Nat) (budget units guard : Nat) (current : Option Placement) : ∀ n : Nat,
    (searchDown occ budget units guard current n = none ↔
        ∀ l, 1 ≤ l → l ≤ n → ∀ s, fits occ budget units guard s l = false) ∧
      ∀ p, searchDown occ budget units guard current n = some p →
        1 ≤ p.len ∧ p.len ≤ n ∧ placeAt occ budget units guard p.len current = some p ∧
          ∀ l, p.len < l → l ≤ n → ∀ s, fits occ budget units guard s l = false := by
  intro n
  induction n with
  | zero => exact ⟨⟨fun _ l h1 h2 => by omega, fun _ => rfl⟩, fun p hp => by cases hp⟩
  | succ n ih =>
    obtain ⟨hn, hs⟩ := placeAt_spec (occ := occ) (budget := budget) (units := units) (guard := guard)
      (current := current) (len := n + 1) (by omega)
    simp only [searchDown]
    cases hp : placeAt occ budget units guard (n + 1) current with
    | some q =>
      have hq := hs q hp
      refine ⟨⟨fun h => (by cases h), fun h => ?_⟩, fun p hpp => ?_⟩
      · have := h (n + 1) (by omega) (Nat.le_refl _) q.start
        rw [hq.2.1] at this
        cases this
      · cases hpp
        rw [hq.1]
        exact ⟨by omega, Nat.le_refl _, hp, fun l h1 h2 => by omega⟩
    | none =>
      have hnone := hn.mp hp
      refine ⟨?_, fun p hpp => ?_⟩
      · rw [ih.1]
        constructor
        · intro h l h1 h2
          by_cases he : l = n + 1
          · subst he; exact hnone
          · exact h l h1 (by omega)
        · intro h l h1 h2
          exact h l h1 (by omega)
      · obtain ⟨h1, h2, h3, h4⟩ := ih.2 p hpp
        refine ⟨h1, by omega, h3, fun l hl1 hl2 => ?_⟩
        by_cases he : l = n + 1
        · subst he; exact hnone
        · exact h4 l hl1 (by omega)

end Sys2Proof.Machine
end

