-- ==== Sys2Proof/Laws/Startup.lean ====
section
/-! SUPPORT. The read of the configuration memory: its pins and the image it gives (R173, R175). -/

namespace Sys2Proof.Machine

/-! ## The pins -/

theorem memoryPins_released {s : State} (h : s.loader.pins = .released) (cycles : Nat) :
    s.csnPin cycles = .released ∧ s.cckPin cycles = .released ∧ s.cmosiPin cycles = .released := by
  simp [State.csnPin, State.cckPin, State.cmosiPin, h]

theorem memoryPins_atRest {s : State} (h : s.loader.pins = .atRest) (cycles : Nat) :
    s.csnPin cycles = .high ∧ s.cckPin cycles = .low ∧ s.cmosiPin cycles = .low := by
  simp [State.csnPin, State.cckPin, State.cmosiPin, h]

/-- The read command 03h and address 0: in its 24 CCK cycles CMOSI is high in cycles 6 and 7 alone. -/
theorem cmosiBit_command {s : State} {k : Nat} (h : k < 24) : s.cmosiBit k = decide (k = 6 ∨ k = 7) := by
  unfold State.cmosiBit
  rw [if_pos (by simpa [commandCycles] using h)]
  have table : ∀ k : Fin 24, transactionCommand.getLsbD (commandCycles - 1 - k.val) = decide (k.val = 6 ∨ k.val = 7) := by
    decide
  exact table ⟨k, h⟩

/-! ## The image -/

theorem readImage_length (memory : List (Option Bool)) : (readImage memory).length = 64 := by
  simp [readImage, Config.imageBytes]

theorem readImage_getElem? {memory : List (Option Bool)} {k : Nat} (h : k < 64) :
    (readImage memory)[k]? = some (readByte memory k) := by
  simp [readImage, Config.imageBytes, h]

/-- Within the image, byte `k` is the byte read. -/
theorem imageByte_readImage {memory : List (Option Bool)} {k : Nat} (h : k < 64) :
    imageByte (readImage memory) k = readByte memory k := by
  simp [imageByte, List.getD, readImage_getElem? h]

/-- A memory that drives nothing reads as bytes of 255. -/
theorem readByte_undriven {memory : List (Option Bool)} (h : ∀ x ∈ memory, x = none) (k : Nat) :
    readByte memory k = 255 := by
  have level : ∀ j, cmisoLevel memory j = true := by
    intro j
    unfold cmisoLevel
    rw [List.getD_eq_getElem?_getD]
    cases hj : memory[j]? with
    | none => rfl
    | some x =>
      have hx := h x (List.mem_of_getElem? hj)
      subst hx
      rfl
  unfold readByte
  simp only [level]
  decide

end Sys2Proof.Machine
end

