-- ==== Sys2Proof/Laws/Timer.lean ====
section
/-! SUPPORT. What a period start does: which commands are one, and what each block's share of it leaves. -/

namespace Sys2Proof.Machine

/-! ## Line interfaces that differ in part -/

/-- `l'` is `l` but for its transmit slots. -/
def LineInterface.SameButSlots (l l' : LineInterface) : Prop := l' = { l with slots := l'.slots }

/-- `l'` is `l` but for the LEVEL slots. -/
def LineInterface.SameButLevel (l l' : LineInterface) : Prop :=
  l' = { l with slots := { l.slots with level := l'.slots.level } }

theorem LineInterface.SameButSlots.refl (l : LineInterface) : l.SameButSlots l := rfl

theorem LineInterface.SameButLevel.refl (l : LineInterface) : l.SameButLevel l := rfl

theorem LineInterface.SameButSlots.trans {a b c : LineInterface} (h : a.SameButSlots b) (g : b.SameButSlots c) :
    a.SameButSlots c := by
  unfold SameButSlots at *
  rw [g, h]

theorem LineInterface.SameButLevel.trans {a b c : LineInterface} (h : a.SameButLevel b) (g : b.SameButLevel c) :
    a.SameButLevel c := by
  unfold SameButLevel at *
  rw [g, h]

theorem LineInterface.SameButLevel.slots {a b : LineInterface} (h : a.SameButLevel b) : a.SameButSlots b := by
  unfold SameButLevel SameButSlots at *
  rw [h]

/-! ## Slots -/

@[simp] theorem TxSlots.ctl_setCtl (t : TxSlots) (i j : SlotId) (c : SlotCtl) :
    (t.setCtl i c).ctl j = if j = i then c else t.ctl j := by
  cases i <;> cases j <;> simp [TxSlots.setCtl, TxSlots.ctl]
  all_goals (split <;> simp_all)

@[simp] theorem TxSlots.ctl_clearHeld (t : TxSlots) (i : SlotId) :
    t.clearHeld.ctl i = { t.ctl i with held := false } := by
  cases i <;> simp [TxSlots.clearHeld, TxSlots.ctl]

/-! ## Key operations and their slots (R101, R102, R171) -/

theorem LevelSlot.give_busy (l : LevelSlot) (new : LevelRequest) :
    l.give true new = { l with followOn := mergeLevel l.followOn new } := rfl

theorem LevelSlot.give_idle (l : LevelSlot) (new : LevelRequest) :
    l.give false new =
      { l with
        content := mergeLevel l.content new
        ctl := if mergeLevel l.content new = l.content then l.ctl else { attempts := 0, held := false } } := rfl

theorem LineInterface.busy_iff (l : LineInterface) (id : SlotId) :
    l.busy id = true ↔ ∃ a, l.attempt = some a ∧ a.slot = id := by
  unfold LineInterface.busy
  cases l.attempt <;> simp

/-- An operation of a key bound to the own station (R171). -/
theorem keyOperation_own {s : State} {k : Num4} (op : LevelOp) (v : Nat) (h : (s.touch.key.get k).bound = s.own) :
    s.keyOperation k op v =
      { s with chans := operateMask s.cfg.placeable op v (s.touch.key.get k).mask s.chans } := by
  unfold State.keyOperation
  simp only [if_pos h]

/-- An operation of a key bound elsewhere (R171). -/
theorem keyOperation_far {s : State} {k : Num4} (op : LevelOp) (v : Nat) (h : (s.touch.key.get k).bound ≠ s.own) :
    s.keyOperation k op v =
      { s with
        line := { s.line with
          slots := { s.line.slots with
            level :=
              s.line.slots.level.set k
                ((s.line.slots.level.get k).give (s.line.busy (.level k))
                  { op := op, value := v, dest := (s.touch.key.get k).bound, mask := (s.touch.key.get k).mask }) } } } := by
  unfold State.keyOperation
  simp only [if_neg h]

/-! ## The commands that are a period start (R23, R24) -/

theorem exec_periodStart {c : Instr} {s : State} (h : StartsPeriod c s) :
    exec c s = .next (s.periodStart (decide (c = .periodEndOfCount))) := by
  obtain ⟨h0, ⟨rfl, h1⟩ | ⟨rfl, h1⟩⟩ := h
  · simp [exec, execPeriodEndOfCount, State.periodStartIf, State.startArises, State.countEnded, h0, h1]
  · have h2 : (!s.timer.started || decide (Config.edgeGuard ≤ s.timer.slot)) = true := by
      rcases h1 with h1 | h1 <;> simp [h1, Config.edgeGuard]
    have h3 : (StartSource.slnEdge == StartSource.endOfCount) = false := by decide
    have h4 : decide (Instr.slnFallingEdge = .periodEndOfCount) = false := by decide
    simp only [exec, execSlnFallingEdge, State.periodStartIf, State.startArises, State.edgeTaken, h0, h2, h3, h4,
      Bool.true_and, if_true]

/-- The command of a source that arises is the period start from it. -/
theorem exec_command {s : State} {src : StartSource} (h : s.startArises src = true) :
    exec src.command s = .next (s.periodStart (src == .endOfCount)) := by
  cases src <;>
    simp [exec, StartSource.command, execPeriodEndOfCount, execSlnFallingEdge, State.periodStartIf, h]

theorem periodStartIf_of {s : State} {src : StartSource} {here : Bool} (h : s.startArises src = true)
    (hh : here = true) : s.periodStartIf src here = s.periodStart (src == .endOfCount) := by
  simp [State.periodStartIf, h, hh]

/-! ## The shares of the blocks -/

theorem keyOperation_line (s : State) (k : Num4) (op : LevelOp) (v : Nat) :
    s.line.SameButLevel (s.keyOperation k op v).line := by
  unfold State.keyOperation
  dsimp only
  split <;> rfl

theorem keyPeriodStart_line (s : State) (k : Num4) : s.line.SameButLevel (s.keyPeriodStart k).line := by
  unfold State.keyPeriodStart
  dsimp only
  split
  · exact keyOperation_line _ _ _ _
  · rfl

theorem keySteps_line (s : State) : s.line.SameButLevel s.keySteps.line := by
  rw [State.keySteps]
  generalize h1 : s.keyPeriodStart 0 = s1
  generalize h2 : s1.keyPeriodStart 1 = s2
  generalize h3 : s2.keyPeriodStart 2 = s3
  have g1 := keyPeriodStart_line s 0
  have g2 := keyPeriodStart_line s1 1
  have g3 := keyPeriodStart_line s2 2
  rw [h1] at g1
  rw [h2] at g2
  rw [h3] at g3
  exact ((g1.trans g2).trans g3).trans (keyPeriodStart_line s3 3)

/-- One key's share of a period start: its record; the own channels or its LEVEL slot, by the step it gives; nothing else. -/
theorem keyPeriodStart_eq (s : State) (k : Num4) :
    s.keyPeriodStart k =
      { s with
        touch := { s.touch with key := s.touch.key.set k ((s.touch.key.get k).atPeriodStart s.touch.holdTime).1 }
        chans :=
          match ((s.touch.key.get k).atPeriodStart s.touch.holdTime).2 with
          | some op =>
            if (s.touch.key.get k).bound = s.own then
              operateMask s.cfg.placeable op s.touch.stepSize (s.touch.key.get k).mask s.chans
            else s.chans
          | none => s.chans
        line := { s.line with
          slots := { s.line.slots with
            level :=
              s.line.slots.level.set k
                (match ((s.touch.key.get k).atPeriodStart s.touch.holdTime).2 with
                 | some op =>
                   if (s.touch.key.get k).bound = s.own then s.line.slots.level.get k
                   else
                     (s.line.slots.level.get k).give (s.line.busy (.level k))
                       { op := op, value := s.touch.stepSize, dest := (s.touch.key.get k).bound
                         mask := (s.touch.key.get k).mask }
                 | none => s.line.slots.level.get k) } } } := by
  have hb := atPeriodStart_bound s.touch.holdTime (s.touch.key.get k)
  have hm := atPeriodStart_mask s.touch.holdTime (s.touch.key.get k)
  unfold State.keyPeriodStart
  generalize (s.touch.key.get k).atPeriodStart s.touch.holdTime = x at *
  obtain ⟨key, op⟩ := x
  cases op with
  | none => simp
  | some op =>
    dsimp only at hb hm ⊢
    by_cases h : (s.touch.key.get k).bound = s.own
    · rw [keyOperation_own op _ (by simpa [State.own, hb] using h)]
      simp [State.own, hm] at h ⊢
      simp [h]
    · rw [keyOperation_far op _ (by simpa [State.own, hb] using h)]
      simp [State.own, hm, hb] at h ⊢
      simp [h, LineInterface.busy]

/-- The key records after a period start. -/
theorem keySteps_touch (s : State) :
    s.keySteps.touch = { s.touch with key := s.touch.key.map fun k => (k.atPeriodStart s.touch.holdTime).1 } := by
  simp only [State.keySteps, keyPeriodStart_eq]
  congr 1

/-- The channels after the steps of a period start: the steps of the keys bound to the own station, in key order. -/
theorem keySteps_chans (s : State) :
    s.keySteps.chans =
      allFour.foldl
        (fun cs k =>
          match ((s.touch.key.get k).atPeriodStart s.touch.holdTime).2 with
          | some op =>
            if (s.touch.key.get k).bound = s.own then
              operateMask s.cfg.placeable op s.touch.stepSize (s.touch.key.get k).mask cs
            else cs
          | none => cs)
        s.chans := by
  simp only [State.keySteps, keyPeriodStart_eq]
  rfl

/-- A LEVEL slot after the steps of a period start: it is given the step of its key, if there is one and it goes there. -/
theorem keySteps_level (s : State) (k : Num4) :
    s.keySteps.line.slots.level.get k =
      match ((s.touch.key.get k).atPeriodStart s.touch.holdTime).2 with
      | some op =>
        if (s.touch.key.get k).bound = s.own then s.line.slots.level.get k
        else
          (s.line.slots.level.get k).give (s.line.busy (.level k))
            { op := op, value := s.touch.stepSize, dest := (s.touch.key.get k).bound, mask := (s.touch.key.get k).mask }
      | none => s.line.slots.level.get k := by
  simp only [State.keySteps, keyPeriodStart_eq]
  match k with
  | 0 => rfl
  | 1 => rfl
  | 2 => rfl
  | 3 => rfl

/-- The round at a period start: one under way goes on; otherwise one begins at the first key in a measured state. -/
theorem beginRound_touch (s : State) :
    s.beginRound.touch =
      { s.touch with
        scan := match s.touch.scan with
          | some k => some k
          | none => s.touch.nextKey allFour } := rfl

theorem beginRound_line (s : State) : s.beginRound.line = s.line := rfl

theorem touchPeriodStart_line (s : State) : s.line.SameButLevel s.touchPeriodStart.line := by
  rw [State.touchPeriodStart, beginRound_line]
  exact keySteps_line s

theorem joinWaitPeriodStart_line (s : State) : s.line.SameButSlots s.joinWaitPeriodStart.line := by
  unfold State.joinWaitPeriodStart
  split
  · split <;> rfl
  · rfl

theorem presencePeriodStart_line (s : State) : s.line.SameButSlots s.presencePeriodStart.line := by
  unfold State.presencePeriodStart
  dsimp only
  split
  · split <;> rfl
  · rfl

theorem controllerPeriodStart_line (s : State) : s.line.SameButSlots s.controllerPeriodStart.line := by
  have h := (joinWaitPeriodStart_line s).trans (presencePeriodStart_line s.joinWaitPeriodStart)
  have e : s.controllerPeriodStart.line = s.joinWaitPeriodStart.presencePeriodStart.line := by
    simp [State.controllerPeriodStart]
  rw [e]
  exact h

/-- The state in which the blocks take a period start: the timer's own share done. -/
def State.timerStarted (s : State) (pull : Bool) : State :=
  { s with
    timer :=
      { slot := 0, period := s.timer.period + 1, started := true, slnPull := pull
        adoptionWait := s.timer.adoptionWait - 1 } }

theorem periodStart_eq (s : State) (pull : Bool) :
    s.periodStart pull =
      (s.timerStarted pull).outputPeriodStart.touchPeriodStart.controllerPeriodStart.linePeriodStart := rfl

@[simp] theorem periodStart_timer (s : State) (pull : Bool) : (s.periodStart pull).timer = (s.timerStarted pull).timer := by
  simp [periodStart_eq]

@[simp] theorem periodStart_out (s : State) (pull : Bool) :
    (s.periodStart pull).out = (s.timerStarted pull).outputPeriodStart.out := by
  simp [periodStart_eq]

@[simp] theorem periodStart_chans (s : State) (pull : Bool) :
    (s.periodStart pull).chans = (s.timerStarted pull).outputPeriodStart.keySteps.chans := by
  simp [periodStart_eq, State.touchPeriodStart]

@[simp] theorem periodStart_touch (s : State) (pull : Bool) :
    (s.periodStart pull).touch = (s.timerStarted pull).outputPeriodStart.touchPeriodStart.touch := by
  simp [periodStart_eq]

@[simp] theorem periodStart_ctl (s : State) (pull : Bool) :
    (s.periodStart pull).ctl = (s.timerStarted pull).outputPeriodStart.touchPeriodStart.controllerPeriodStart.ctl := by
  simp [periodStart_eq]

theorem linePeriodStart_line (s : State) :
    s.linePeriodStart.line =
      { s.line with
        slots := { s.line.slots.clearHeld with cooldown := s.line.slots.clearHeld.cooldown - 1 }
        attempt := s.line.attempt.map fun a => { a with crossed := true } } := rfl

/-- The line interface at a period start: the slots, and the mark of an attempt under way. -/
theorem periodStart_line (s : State) (pull : Bool) :
    (s.periodStart pull).line =
      { s.line with
        slots := (s.periodStart pull).line.slots
        attempt := s.line.attempt.map fun a => { a with crossed := true } } := by
  have key : ∀ u : State, s.line.SameButSlots u.line →
      u.linePeriodStart.line =
        { s.line with
          slots := u.linePeriodStart.line.slots
          attempt := s.line.attempt.map fun a => { a with crossed := true } } := by
    intro u h
    unfold LineInterface.SameButSlots at h
    rw [linePeriodStart_line]
    generalize u.line.slots = x at *
    rw [h]
  rw [periodStart_eq]
  apply key
  have h1 := (touchPeriodStart_line (s.timerStarted pull).outputPeriodStart).slots
  rw [State.outputPeriodStart_line] at h1
  exact h1.trans (controllerPeriodStart_line _)

theorem periodStart_held (s : State) (pull : Bool) (id : SlotId) :
    ((s.periodStart pull).line.slots.ctl id).held = false := by
  rw [periodStart_eq, linePeriodStart_line]
  have h : ∀ (t : TxSlots) (n : Nat), ({ t.clearHeld with cooldown := n } : TxSlots).ctl id = t.clearHeld.ctl id := by
    intro t n
    cases id <;> rfl
  simp only [h, TxSlots.ctl_clearHeld]

/-- The station controller at a period start of a station in RUN (R120, R121). -/
theorem controllerPeriodStart_run {s : State} (h : s.ctl.station = .run) :
    s.controllerPeriodStart.ctl =
        { s.ctl with
          presence := s.ctl.presence - 1
          silence := s.ctl.silence.map fun x => { x with count := min (x.count + 1) Config.silenceLimit } } ∧
      s.controllerPeriodStart.line.slots.presenceWork = (s.line.slots.presenceWork || decide (s.ctl.presence = 1)) := by
  have hj : s.joinWaitPeriodStart = s := by simp [State.joinWaitPeriodStart, h]
  unfold State.controllerPeriodStart
  rw [hj]
  unfold State.presencePeriodStart
  by_cases hp : 0 < s.ctl.presence
  · by_cases h1 : s.ctl.presence = 1
    · simp [h, h1, State.silencePeriodStart]
    · simp [h, h1, hp, State.silencePeriodStart]
  · have h0 : s.ctl.presence = 0 := by omega
    simp [h, h0, State.silencePeriodStart]

/-- The station controller at a period start outside RUN and JOIN-WAIT: nothing. -/
theorem controllerPeriodStart_other {s : State} (h : s.ctl.station ≠ .run) (h' : s.ctl.station ≠ .joinWait) :
    s.controllerPeriodStart = s := by
  simp [State.controllerPeriodStart, State.joinWaitPeriodStart, State.presencePeriodStart, State.silencePeriodStart, h,
    h']

/-- The join wait at a period start (R111). -/
theorem controllerPeriodStart_joinWait {s : State} (h : s.ctl.station = .joinWait) (h' : 0 < s.ctl.joinWait) :
    s.controllerPeriodStart =
      if s.ctl.joinWait = 1 then s.enterFoundSend
      else { s with ctl := { s.ctl with joinWait := s.ctl.joinWait - 1 } } := by
  unfold State.controllerPeriodStart State.joinWaitPeriodStart
  rw [if_pos ⟨h, h'⟩]
  split <;> simp [State.presencePeriodStart, State.silencePeriodStart, State.enterFoundSend, h]

/-- The slots after the controller's share of a period start (R111, R120). -/
theorem controllerPeriodStart_slots (s : State) :
    s.controllerPeriodStart.line.slots =
      { s.line.slots with
        joinFound :=
          { s.line.slots.joinFound with
            attempts :=
              if s.ctl.station = .joinWait ∧ s.ctl.joinWait = 1 then 0 else s.line.slots.joinFound.attempts }
        joinFoundHolds :=
          if s.ctl.station = .joinWait ∧ s.ctl.joinWait = 1 then some .found else s.line.slots.joinFoundHolds
        presenceWork := s.line.slots.presenceWork || decide (s.ctl.station = .run ∧ s.ctl.presence = 1) } := by
  by_cases h : s.ctl.station = .joinWait
  · by_cases h1 : s.ctl.joinWait = 1
    · simp [State.controllerPeriodStart, State.joinWaitPeriodStart, State.presencePeriodStart,
        State.silencePeriodStart, State.enterFoundSend, h, h1]
    · by_cases h0 : 0 < s.ctl.joinWait <;>
        simp [State.controllerPeriodStart, State.joinWaitPeriodStart, State.presencePeriodStart,
          State.silencePeriodStart, h, h1, h0]
  · by_cases hr : s.ctl.station = .run
    · by_cases h1 : s.ctl.presence = 1
      · simp [State.controllerPeriodStart, State.joinWaitPeriodStart, State.presencePeriodStart,
          State.silencePeriodStart, hr, h1]
      · by_cases h0 : 0 < s.ctl.presence <;>
          simp [State.controllerPeriodStart, State.joinWaitPeriodStart, State.presencePeriodStart,
            State.silencePeriodStart, hr, h1, h0]
    · simp [controllerPeriodStart_other hr h, h, hr]

/-- The slots after a period start; what the key steps leave in the LEVEL slots is `keySteps_level`'s. -/
theorem periodStart_slots (s : State) (pull : Bool) :
    (s.periodStart pull).line.slots =
      let ends := s.ctl.station = .joinWait ∧ s.ctl.joinWait = 1
      let t := s.line.slots
      { t.clearHeld with
        joinFound := { attempts := if ends then 0 else t.joinFound.attempts, held := false }
        joinFoundHolds := if ends then some .found else t.joinFoundHolds
        cooldown := t.cooldown - 1
        presenceWork := t.presenceWork || decide (s.ctl.station = .run ∧ s.ctl.presence = 1)
        level :=
          (s.timerStarted pull).outputPeriodStart.keySteps.line.slots.level.map fun l =>
            { l with ctl := { l.ctl with held := false } } } := by
  have key : ∀ u : State, s.line.SameButLevel u.line → u.ctl = s.ctl →
      u.controllerPeriodStart.linePeriodStart.line.slots =
        let ends := s.ctl.station = .joinWait ∧ s.ctl.joinWait = 1
        let t := s.line.slots
        { t.clearHeld with
          joinFound := { attempts := if ends then 0 else t.joinFound.attempts, held := false }
          joinFoundHolds := if ends then some .found else t.joinFoundHolds
          cooldown := t.cooldown - 1
          presenceWork := t.presenceWork || decide (s.ctl.station = .run ∧ s.ctl.presence = 1)
          level := u.line.slots.level.map fun l => { l with ctl := { l.ctl with held := false } } } := by
    intro u h hc
    have h' : u.line.slots = { s.line.slots with level := u.line.slots.level } := congrArg LineInterface.slots h
    rw [linePeriodStart_line, controllerPeriodStart_slots, hc]
    generalize u.line.slots = x at *
    rw [h']
    rfl
  have h := touchPeriodStart_line (s.timerStarted pull).outputPeriodStart
  rw [State.outputPeriodStart_line] at h
  rw [periodStart_eq, key _ h (by simp [State.timerStarted]), State.touchPeriodStart, beginRound_line]

end Sys2Proof.Machine
end

