-- ==== Sys2Proof/Laws/Station.lean ====
section
/-! SUPPORT. What the changes of station state do, the Pending Change Queue, and the end of an attempt. -/

namespace Sys2Proof.Machine

/-! ## Emptying and restarting (R89, R106, R125, R128, R158) -/

theorem emptied_out_get (o : OutputStage) (n : Num4) :
    (o.emptied.chan.get n) = { o.chan.get n with plan := none, lowCount := 0 } := by
  simp [OutputStage.emptied]

/-- A station that is not in RUN drives no output (R152, R154). -/
theorem outActive_outside_run {s : State} (h : s.ctl.station ≠ .run) (n : Num4) : s.outActive n = false := by
  simp [State.outActive, h]

/-- R149: a channel's restart value, by its state and target. -/
theorem restart_eq (c : Channel) :
    c.restart =
      if c.state = .unused ∨ c.state = .faulted then { c with owed := false, revised := false }
      else if 0 < c.target then { c with state := .seeking, owed := true, revised := true }
      else { c with state := .dark, owed := false, revised := false } := by
  unfold Channel.restart
  cases h : c.state <;> simp

/-- R128: entry to HALTED, in the words of the statements. -/
theorem halt_eq_haltedBy (s : State) (cause : HaltCause) : s.halt cause = s.haltedBy cause := by
  unfold State.halt
  rw [show Channel.restart = _ from funext restart_eq]
  rfl

/-- A warm restart, but for the line interface: everything it sets (R126). -/
theorem warmRestart_blocks (s : State) :
    s.warmRestart.timer = { s.timer with adoptionWait := s.evictAt } ∧ s.warmRestart.engine = s.engine.emptied ∧
      s.warmRestart.chans = s.chans.map Channel.restart ∧ s.warmRestart.out = s.out.emptied ∧
      s.warmRestart.ctl =
        { s.ctl with
          station := .joinSend, joinWait := 0, presence := 0, silence := [], rejoins := satInc s.ctl.rejoins } := by
  unfold State.warmRestart
  dsimp only
  split <;> exact ⟨rfl, rfl, rfl, rfl, rfl⟩

/-- The line interface's share of a warm restart: at once, or at the end of the own attempt (R57). -/
theorem warmRestart_line (s : State) :
    s.warmRestart.line =
      if s.line.attempt.isSome then { s.line with restartPending := true } else s.line.restarted := by
  unfold State.warmRestart
  dsimp only
  split <;> rfl

/-- The removal of the head (R56, R61). -/
theorem dropHead_line (s : State) :
    s.dropHead.line =
      { s.line with
        inbound := s.line.inbound.tail
        holdLatch := if s.line.inbound.tail.length ≤ Config.latchRelease then false else s.line.holdLatch } := rfl

/-- The command that applies the head takes it in these cases, and only these (R61, R62). -/
theorem useHead_eq_some {s : State} {r : Record} :
    s.useHead = some r ↔
      s.ctl.station.listening = true ∧ s.line.restartPending = false ∧ s.line.inbound.head? = some r ∧
        r.payload.usedIn s.ctl.station = true := by
  unfold State.useHead State.engineHead
  by_cases h : (s.ctl.station.listening && !s.line.restartPending) = true
  · rw [if_pos h]
    simp only [Bool.and_eq_true, Bool.not_eq_true'] at h
    cases hq : s.line.inbound.head? with
    | none => simp
    | some x =>
      simp only [h.1, h.2, true_and]
      constructor
      · intro hx
        split at hx
        · rename_i hu
          cases hx
          exact ⟨rfl, hu⟩
        · cases hx
      · rintro ⟨hx, hu⟩
        cases hx
        rw [if_pos hu]
  · rw [if_neg h]
    simp only [Bool.and_eq_true, Bool.not_eq_true'] at h
    constructor
    · intro hx
      cases hx
    · rintro ⟨h1, h2, _⟩
      exact absurd ⟨h1, h2⟩ h

theorem useHead_of_atHead {s : State} {r : Record} {rest : List Record} (h : AtHead s r rest)
    (hl : s.ctl.station.listening = true) (hu : r.payload.usedIn s.ctl.station = true) : s.useHead = some r :=
  useHead_eq_some.mpr ⟨hl, h.2, by rw [h.1]; rfl, hu⟩

/-- The line once the head has been removed. -/
theorem dropHead_popped {s : State} {r : Record} {rest : List Record} (h : s.line.inbound = r :: rest) :
    s.dropHead = { s with line := s.line.popped rest } := by
  unfold State.dropHead LineInterface.popped
  rw [h]
  rfl

/-! ## The Pending Change Queue (R36) -/

/-- What an addition leaves in the queue: the entry added, and those for another (channel, e). -/
theorem mem_addPending (p x : PendingChange) (q : List PendingChange) :
    x ∈ addPending p q ↔ x = p ∨ (x ∈ q ∧ ¬ (x.channel = p.channel ∧ x.e = p.e)) := by
  unfold addPending
  by_cases h : (q.any fun y => y.channel == p.channel && y.e == p.e) = true
  · rw [if_pos h]
    simp only [List.any_eq_true, Bool.and_eq_true, beq_iff_eq] at h
    obtain ⟨y, hy, hyp⟩ := h
    simp only [List.mem_map]
    constructor
    · rintro ⟨z, hz, rfl⟩
      by_cases hzp : z.channel = p.channel ∧ z.e = p.e
      · simp [hzp]
      · rw [if_neg hzp]
        exact Or.inr ⟨hz, hzp⟩
    · rintro (rfl | ⟨hx, hn⟩)
      · exact ⟨y, hy, by rw [if_pos hyp]⟩
      · exact ⟨x, hx, by rw [if_neg hn]⟩
  · rw [if_neg h]
    simp only [List.any_eq_true, Bool.and_eq_true, beq_iff_eq, not_exists, not_and] at h
    simp only [List.mem_append, List.mem_singleton]
    constructor
    · rintro (hx | rfl)
      · exact Or.inr ⟨hx, fun hh => h x hx hh.1 hh.2⟩
      · exact Or.inl rfl
    · rintro (rfl | ⟨hx, _⟩)
      · exact Or.inr rfl
      · exact Or.inl hx

/-- An addition keeps one entry per (channel, e). -/
theorem addPending_pairwise {p : PendingChange} {q : List PendingChange}
    (h : q.Pairwise fun a b => a.channel ≠ b.channel ∨ a.e ≠ b.e) :
    (addPending p q).Pairwise fun a b => a.channel ≠ b.channel ∨ a.e ≠ b.e := by
  unfold addPending
  by_cases hq : (q.any fun y => y.channel == p.channel && y.e == p.e) = true
  · rw [if_pos hq, List.pairwise_map]
    refine h.imp ?_
    intro a b hab
    by_cases ha : a.channel = p.channel ∧ a.e = p.e
    · by_cases hb : b.channel = p.channel ∧ b.e = p.e
      · rcases hab with hab | hab
        · exact absurd (ha.1.trans hb.1.symm) hab
        · exact absurd (ha.2.trans hb.2.symm) hab
      · rw [if_pos ha, if_neg hb, ← ha.1, ← ha.2]
        exact hab
    · by_cases hb : b.channel = p.channel ∧ b.e = p.e
      · rw [if_neg ha, if_pos hb, ← hb.1, ← hb.2]
        exact hab
      · rw [if_neg ha, if_neg hb]
        exact hab
  · rw [if_neg hq, List.pairwise_append]
    simp only [List.any_eq_true, Bool.and_eq_true, beq_iff_eq, not_exists, not_and] at hq
    refine ⟨h, List.pairwise_singleton _ _, ?_⟩
    intro a ha b hb
    rw [List.mem_singleton] at hb
    subst hb
    by_cases hc : a.channel = b.channel
    · exact Or.inr fun he => hq a ha hc he
    · exact Or.inl hc

/-- What an addition of several channels leaves: an old entry, or the entry of one of those channels. -/
theorem mem_addAll {e : Byte} {place : Num4 → Option Placement} {chs : List Num4} {q : List PendingChange}
    {x : PendingChange} (h : x ∈ addAll e place chs q) :
    x ∈ q ∨ (x.channel ∈ chs ∧ x.e = e ∧ x.placement = place x.channel) := by
  unfold addAll at h
  induction chs generalizing q with
  | nil => exact Or.inl h
  | cons n ns ih =>
    rw [List.foldl_cons] at h
    rcases ih h with hx | ⟨h1, h2, h3⟩
    · rcases (mem_addPending _ _ _).mp hx with rfl | ⟨hx, _⟩
      · exact Or.inr ⟨by simp, rfl, rfl⟩
      · exact Or.inl hx
    · exact Or.inr ⟨by simp [h1], h2, h3⟩

theorem addAll_pairwise {e : Byte} {place : Num4 → Option Placement} {chs : List Num4} {q : List PendingChange}
    (h : q.Pairwise fun a b => a.channel ≠ b.channel ∨ a.e ≠ b.e) :
    (addAll e place chs q).Pairwise fun a b => a.channel ≠ b.channel ∨ a.e ≠ b.e := by
  unfold addAll
  induction chs generalizing q with
  | nil => exact h
  | cons n ns ih => exact ih (addPending_pairwise h)

/-- An old entry stays unless one of those channels is entered under its `e` (R36). -/
theorem addAll_old {e : Byte} {place : Num4 → Option Placement} {chs : List Num4} {q : List PendingChange}
    {x : PendingChange} (h : x ∈ q) (hn : ¬ (x.channel ∈ chs ∧ x.e = e)) : x ∈ addAll e place chs q := by
  unfold addAll
  induction chs generalizing q with
  | nil => exact h
  | cons n ns ih =>
    rw [List.foldl_cons]
    apply ih
    · exact (mem_addPending _ _ _).mpr (Or.inr ⟨h, fun hc => hn ⟨by simp [hc.1], hc.2⟩⟩)
    · exact fun hc => hn ⟨List.mem_cons_of_mem _ hc.1, hc.2⟩

/-- The entry of a channel under `e` stays through the addition of any. -/
theorem addAll_keeps {e : Byte} {place : Num4 → Option Placement} {chs : List Num4} {q : List PendingChange} {n : Num4}
    (h : ({ channel := n, e := e, placement := place n } : PendingChange) ∈ q) :
    ({ channel := n, e := e, placement := place n } : PendingChange) ∈ addAll e place chs q := by
  unfold addAll
  induction chs generalizing q with
  | nil => exact h
  | cons m ms ih =>
    apply ih
    by_cases hm : n = m
    · subst hm
      exact (mem_addPending _ _ _).mpr (Or.inl rfl)
    · exact (mem_addPending _ _ _).mpr (Or.inr ⟨h, fun hh => hm hh.1⟩)

theorem addAll_mem {e : Byte} {place : Num4 → Option Placement} {chs : List Num4} {q : List PendingChange} {n : Num4}
    (h : n ∈ chs) : ({ channel := n, e := e, placement := place n } : PendingChange) ∈ addAll e place chs q := by
  induction chs generalizing q with
  | nil => cases h
  | cons m ms ih =>
    rcases List.mem_cons.mp h with rfl | h
    · exact addAll_keeps (chs := ms) ((mem_addPending _ _ _).mpr (Or.inl rfl))
    · exact ih h

theorem addPendings_eq (s : State) (e : Byte) (chs : List Num4) :
    (s.addPendings e chs).out.pending =
      addAll e (fun n => (claimOf s.engine.replica.claims s.own n).map Claim.placement)
        (chs.filter fun n => (s.chans.get n).state != .unused) s.out.pending := rfl

/-- An addition of several channels under one `e`: a member is an old one, or is one of those channels under `e`, and no UNUSED
one (R63, R151). -/
theorem mem_addPendings {s : State} {e : Byte} {chs : List Num4} {x : PendingChange}
    (h : x ∈ (s.addPendings e chs).out.pending) :
    x ∈ s.out.pending ∨
      (x.channel ∈ chs ∧ (s.chans.get x.channel).state ≠ .unused ∧ x.e = e ∧
        x.placement = (claimOf s.engine.replica.claims s.own x.channel).map Claim.placement) := by
  rw [addPendings_eq] at h
  rcases mem_addAll h with h | ⟨hc, he, hp⟩
  · exact Or.inl h
  · rw [List.mem_filter, bne_iff_ne] at hc
    exact Or.inr ⟨hc.1, hc.2, he, hp⟩

/-- An old entry stays unless one of those channels, and no UNUSED one, is entered under its `e` (R36, R63). -/
theorem addPendings_old {s : State} {e : Byte} {chs : List Num4} {x : PendingChange} (h : x ∈ s.out.pending) :
    x ∈ (s.addPendings e chs).out.pending ∨
      (x.e = e ∧ (s.chans.get x.channel).state ≠ .unused ∧ x.channel ∈ chs) := by
  rw [addPendings_eq]
  by_cases hx : x.channel ∈ chs.filter (fun n => (s.chans.get n).state != .unused) ∧ x.e = e
  · rw [List.mem_filter, bne_iff_ne] at hx
    exact Or.inr ⟨hx.2, hx.1.2, hx.1.1⟩
  · exact Or.inl (addAll_old h hx)

theorem addPendings_pairwise {s : State} {e : Byte} {chs : List Num4}
    (h : s.out.pending.Pairwise fun a b => a.channel ≠ b.channel ∨ a.e ≠ b.e) :
    (s.addPendings e chs).out.pending.Pairwise fun a b => a.channel ≠ b.channel ∨ a.e ≠ b.e := by
  rw [addPendings_eq]
  exact addAll_pairwise h

/-- Each channel added that is not UNUSED is in the queue under `e`, with its placement as it stands (R63). -/
theorem addPendings_mem {s : State} {e : Byte} {chs : List Num4} {n : Num4} (h : n ∈ chs)
    (hu : (s.chans.get n).state ≠ .unused) :
    ({ channel := n, e := e, placement := (claimOf s.engine.replica.claims s.own n).map Claim.placement } :
        PendingChange) ∈ (s.addPendings e chs).out.pending := by
  rw [addPendings_eq]
  exact addAll_mem (place := fun n => (claimOf s.engine.replica.claims s.own n).map Claim.placement)
    (List.mem_filter.mpr ⟨h, bne_iff_ne.mpr hu⟩)

/-- An addition gives no UNUSED channel an entry. -/
theorem addPendings_undriven {s : State} {e : Byte} {chs : List Num4} (h : UnusedUndriven s) :
    UnusedUndriven (s.addPendings e chs) := by
  intro n hn
  refine ⟨(h n hn).1, fun x hx hc => ?_⟩
  rcases mem_addPendings hx with hx | ⟨_, hu, _⟩
  · exact (h n hn).2 x hx hc
  · exact hu (hc ▸ hn)

/-- An UNUSED channel drives no output (R153). -/
theorem outActive_unused {s : State} {n : Num4} (h : UnusedUndriven s) (hn : (s.chans.get n).state = .unused) :
    s.outActive n = false := by
  simp [State.outActive, (h n hn).1]

/-! ## Slots at the end of an event -/

/-- Settling touches the attempt counts of the PLACE and EVICT slots, and nothing else (R95, R96). -/
theorem settleSlots_line (s : State) : s.line.SameButSlots s.settleSlots.line := rfl

/-- A PLACE slot has work in RUN with an owed channel, an EVICT slot in RUN with a station to evict (R90). -/
theorem hasWork_place (s : State) :
    s.hasWork .place = true ↔ s.ctl.station = .run ∧ ∃ n, (s.chans.get n).owed = true := by
  unfold State.hasWork State.anyOwed
  simp only [Bool.and_eq_true, beq_iff_eq, Four.any_iff]

theorem hasWork_evict (s : State) : s.hasWork .evict = true ↔ s.ctl.station = .run ∧ s.toEvict ≠ [] := by
  unfold State.hasWork
  simp

/-- What settling leaves in the slots. -/
theorem settleSlots_eq (s : State) :
    s.settleSlots = { s with line := { s.line with slots := s.settled s.line.slots } } := by
  unfold State.settleSlots State.settled
  simp only [hasWork_place, hasWork_evict]

theorem settleSlots_ctl (s : State) (id : SlotId) :
    s.settleSlots.line.slots.ctl id = s.line.slots.ctl id ∨
      ((id = .place ∨ id = .evict) ∧ s.hasWork id = false ∧
        s.settleSlots.line.slots.ctl id = { s.line.slots.ctl id with attempts := 0 }) := by
  cases id
  case place =>
    cases h : s.hasWork .place with
    | true => exact Or.inl (by simp [State.settleSlots, TxSlots.ctl, h])
    | false => exact Or.inr ⟨Or.inl rfl, rfl, by simp [State.settleSlots, TxSlots.ctl, h]⟩
  case evict =>
    cases h : s.hasWork .evict with
    | true => exact Or.inl (by simp [State.settleSlots, TxSlots.ctl, h])
    | false => exact Or.inr ⟨Or.inr rfl, rfl, by simp [State.settleSlots, TxSlots.ctl, h]⟩
  all_goals exact Or.inl rfl

/-! ## Entry to RUN (R118, R148) -/

theorem enterRun_fields (s : State) :
    s.enterRun.engine = { s.engine with dumpOwed := false, build := none, witnesses := [], mismatches := 0 } ∧
      s.enterRun.ctl.station = .run ∧ s.enterRun.ctl.joinWait = 0 ∧
      s.enterRun.ctl.presence = s.own * 7 % s.cfg.presence + 1 ∧
      s.enterRun.ctl.silence = freshSilence s.own s.engine.replica.roster ∧
      s.enterRun.ctl.ownIncarnation = incarnationIn s.own s.engine.replica.roster ∧
      ∀ n, s.enterRun.chans.get n = (s.chans.get n).resolve (s.holdsEntry n) :=
  ⟨rfl, rfl, rfl, rfl, rfl, rfl, fun n => by simp [State.enterRun]⟩

/-! ## DUMP-OPEN (R78, R98) -/

/-- A DUMP-OPEN of the node's own, or one applied within the own run, leaves the slots. -/
theorem cancelDump_of {foreign : Bool} {t : TxSlots} (h : foreign = false ∨ t.dumpRun ≠ none) :
    t.cancelDump foreign = t := by
  unfold TxSlots.cancelDump
  rcases h with rfl | h
  · rfl
  · cases hd : t.dumpRun with
    | none => exact absurd hd h
    | some r => simp

theorem applyDumpOpenRecord_line (s : State) (source : Nat) :
    (s.applyDumpOpenRecord source).line = { s.line with slots := s.line.slots.cancelDump (source != s.own) } := rfl

theorem applyDumpOpenRecord_engine (s : State) (source : Nat) :
    (s.applyDumpOpenRecord source).engine = { s.engine with dumpOwed := false } := rfl

/-! ## Key pads (R162, R172) -/

/-- With the timer stopped no pad is driven. -/
theorem keyPin_stopped {s : State} (h : s.ctl.station.timerRuns = false) (n : Num4) (cycles : Nat) :
    s.keyPin n cycles = .released := by
  simp [State.keyPin, h]

end Sys2Proof.Machine
end

