-- ==== Sys2Proof/Laws/Trailer.lean ====
section
/-! SUPPORT. What a trailer is decided by, and what follows for the queue (R50, R53, R55). -/

namespace Sys2Proof.Machine

theorem queueFull_iff (s : State) : s.queueFull = true ↔ 8 ≤ s.line.inbound.length := decide_eq_true_iff

/-- Where no event of the node falls within the trailer, the state at its end decides it. -/
theorem trailerOf_none {s : State} {m : Reception} (h : m.trailer = none) : s.trailerOf m = s.trailerNow := by
  simp [State.trailerOf, h]

theorem trailerOf_some {s : State} {m : Reception} {t : Trailer} (h : m.trailer = some t) :
    s.trailerOf m = { t with full := t.full || s.queueFull, latched := t.latched || s.line.holdLatch } := by
  simp [State.trailerOf, h]

/-- A queue that is full at the trailer's end was full at the start of the HOLD slot. -/
theorem trailerOf_full {s : State} (m : Reception) (h : s.queueFull = true) : (s.trailerOf m).full = true := by
  cases ht : m.trailer with
  | none => rw [trailerOf_none ht]; exact h
  | some t => rw [trailerOf_some ht]; simp [h]

/-- A latch that is set at the trailer's end was set at the start of the HOLD slot. -/
theorem trailerOf_latched {s : State} (m : Reception) (h : s.line.holdLatch = true) : (s.trailerOf m).latched = true := by
  cases ht : m.trailer with
  | none => rw [trailerOf_none ht]; exact h
  | some t => rw [trailerOf_some ht]; simp [h]

/-- R47, R49: a message that is read and not vetoed has no ERROR of this station. -/
theorem signalsError_of_message {s : State} {m : Reception} {msg : Message} (hn : m.toNobody = false)
    (hm : m.message = some msg) : s.signalsError m = s.vetoes (s.trailerOf m).errorState msg.payload := by
  simp [State.signalsError, hn, hm]

/-- R50: HOLD, for a message that is read and gets no ERROR. -/
theorem signalsHold_of_message {s : State} {m : Reception} {msg : Message} (hn : m.toNobody = false)
    (hm : m.message = some msg) :
    s.signalsHold m =
      (!s.signalsError m && (s.admits m msg && ((s.trailerOf m).full || (s.trailerOf m).latched))) := by
  simp [State.signalsHold, hn, hm]

/-- R55: a ninth record never arises: an accepted message that is queued finds room. -/
theorem queues_room {s : State} {m : Reception} {msg : Message} (ha : Accepts s m msg) (hq : s.queues m msg = true) :
    s.line.inbound.length < 8 := by
  obtain ⟨_, hn, hm, he, hh⟩ := ha
  have hadmits : s.admits m msg = true := by
    unfold State.queues at hq
    simp only [Bool.and_eq_true] at hq
    exact hq.1
  rw [signalsHold_of_message hn hm, he, hadmits] at hh
  simp only [Bool.not_false, Bool.true_and, Bool.or_eq_false_iff] at hh
  by_contra hl
  have := trailerOf_full m ((queueFull_iff s).mpr (by omega))
  rw [this] at hh
  exact absurd hh.1 (by decide)

/-- R53, R55: what an acceptance does to the queue. -/
theorem acceptQueue_inbound (s : State) (queued boundary : Bool) (m : Message) :
    (s.acceptQueue queued boundary m).line.inbound =
      if queued = true then s.line.inbound ++ [s.recordOf boundary m] else s.line.inbound := by
  unfold State.acceptQueue
  split <;> rfl

/-- R50, R56: what this station's own signals leave in the line interface. -/
theorem countSignals_line (s : State) (full error hold : Bool) :
    (s.countSignals full error hold).line =
      { s.line with
        idle := false
        errorsSignalled := if error then satInc s.line.errorsSignalled else s.line.errorsSignalled
        holdsSignalled := if hold then satInc s.line.holdsSignalled else s.line.holdsSignalled
        holdLatch := s.line.holdLatch || (hold && full && decide (4 < s.line.inbound.length)) } := rfl

/-- The own signals of a failed message, in the words of the statements. -/
theorem countSignals_signalled (s : State) (m : Reception) :
    s.countSignals (s.trailerOf m).full (s.signalsError m) (s.signalsHold m) =
      { s with line := { s.signalled m s.line with idle := false } } := rfl

/-- R53, R55: what an acceptance leaves in the queue, in the words of the statements. -/
theorem acceptQueue_queueAfter (s : State) (m : Reception) (msg : Message) (boundary : Bool) :
    (s.acceptQueue (s.queues m msg) boundary msg).line.inbound = s.queueAfter m msg boundary := by
  rw [acceptQueue_inbound]
  unfold State.queues State.queueAfter State.recordOf
  simp only [Bool.and_eq_true, beq_iff_eq]

/-- R31: last-e at an acceptance: a FOUND's period, a DUMP-OPEN's last-e, the e-stamp of a state-changing kind. -/
theorem newLastE_eq (old : Byte) (p : Payload) :
    newLastE old p =
      match p with
      | .found period _ => period
      | .dumpOpen f => f.lastE
      | p => p.e.getD old := by
  cases p <;> rfl

/-- R31, R59: the marks an acceptance leaves, in the words of the statements. -/
theorem acceptMarks_accepted (s : State) (m : Message) :
    (s.acceptMarks m).line =
      { s.line.accepted m s.line.inbound s.line.slots with idle := s.line.idle, attempt := s.line.attempt } := by
  obtain ⟨priority, lock, source, dest, payload⟩ := m
  cases payload <;> rfl

end Sys2Proof.Machine
end

