-- ==== Sys2Proof/Tests/Slice0.lean ====
section
/-! SUPPORT. The model's own tests: the checks of a command's operands, the spec's worked examples, and for every statement a
state and operands that meet its hypotheses. -/

set_option Elab.async false

namespace Sys2Proof.Tests

open Sys2Proof Sys2Proof.Machine

/-! ## States -/

/-- The command answers a next state, and `p` holds of it. -/
def after (o : Host.Outcome State Fault Refusal) (p : State → Bool) : Bool :=
  match o with
  | .next t => p t
  | .fault _ => false
  | .refused _ => false

/-- The parameters of the example of 10.6: rate code 2, slot code 1, guard 4, budget 800, presence interval 64. -/
def imageLine : List Byte := [0x5A, 0x4B, 2, 1, 4, 3, 32, 64]

/-- The image bytes 0..61 for the line parameters, four channels, four keys, a hold time of 5 × 4 and a step of 8. -/
def imageBody (line : List Byte) : List Byte :=
  line ++ [12, 2, 60, 4, 8, 1, 0, 1, 63, 0, 128, 7, 0, 0, 9, 0] ++
    [1, 5, 15, 20, 0, 1, 0, 3, 4, 6, 1, 30, 1, 255, 1, 0, 0, 0, 4, 0] ++ [5, 8] ++ List.replicate 16 0

/-- An image with its check. -/
def imageOf (body : List Byte) : List Byte := body ++ [hiByte (weightedSum body), loByte (weightedSum body)]

def goodImage : List Byte := imageOf (imageBody imageLine)

/-- What a memory that holds an image drives on CMISO: nothing in the 24 cycles of command and address, then its bits. -/
def driven (image : List Byte) : List (Option Bool) :=
  List.replicate 24 none ++ image.flatMap fun b => (List.range 8).map fun i => some (b.getLsbD (7 - i))

/-- What no memory drives. -/
def undriven : List (Option Bool) := List.replicate 536 none

/-- The guard and the budget of the example of 1.3.4. -/
def lineParams : LineParams := { rateCode := 2, slotCode := 1, guard := 8, budget := 40, presence := 16 }

/-- Station 5 in a station state, at a slot of period 60. -/
def node (st : StationState) (slot : Nat) : State :=
  { State.reset with
    loader := { phase := .finished, strap := 5, digest := 572, pins := .atRest }
    cfg := lineParams
    timer := { slot := slot, period := 60, started := true, slnPull := false, adoptionWait := 0 }
    line := { State.reset.line with idle := true, heard := true }
    chans :=
      { Four.replicate { Channel.untaken with lastLit := 112 } with
        c0 := { units := 12, cls := 2, defaultLevel := 60, target := 60, lastLit := 60, state := .seeking, owed := true, revised := true }
        c1 := { units := 8, cls := 1, defaultLevel := 0, target := 0, lastLit := 112, state := .dark, owed := false, revised := false } }
    out := { State.reset.out with configured := true }
    ctl := { State.reset.ctl with station := st, joinWait := if st = .joinWait then 32 else 0 }
    touch := { State.reset.touch with holdTime := 16, stepSize := 5 } }

/-- The Claim List of the example of 1.3.4. -/
def claim3 : Claim := { station := 3, channel := 1, cls := 1, units := 10, start := 8, len := 40 }

def claim7 : Claim := { station := 7, channel := 0, cls := 0, units := 20, start := 8, len := 64 }

/-- The replica of that example: shed level 1. -/
def exampleReplica : Replica :=
  { claims := [claim3, claim7], slotMap := addOver (addOver emptyMap 8 40 10) 8 64 20
    roster := [{ station := 3, incarnation := 0 }, { station := 5, incarnation := 0 }, { station := 7, incarnation := 2 }]
    shed := 1, cursor := .invalid, stateCount := 4 }

/-- Station 5 in RUN on that line. -/
def member (slot : Nat) : State :=
  { node .run slot with
    engine := { State.reset.engine with replica := exampleReplica, heldCheck := stateCheck exampleReplica }
    ctl :=
      { State.reset.ctl with
        station := .run, presence := 8, silence := [{ station := 3, count := 0 }, { station := 7, count := 0 }] } }

/-- Station 5 in JOIN-SEND with its JOIN in its slot. -/
def joining : State :=
  let s := node .joinSend 5
  { s with line := { s.line with slots := { s.line.slots with joinFoundHolds := some .join } } }

/-- `member` with nothing owed. -/
def quiet (slot : Nat) : State :=
  { member slot with chans := (member slot).chans.map fun c => { c with owed := false, revised := false } }

/-- A record of period 60. -/
def record (source : Nat) (p : Payload) : Record := { source := source, lock := false, stamp := 60, boundary := false, payload := p }

/-- A state with one record in its queue. -/
def withHead (s : State) (r : Record) : State := { s with line := { s.line with inbound := [r] } }

/-- A message of another station, priority 1. -/
def message (source dest : Nat) (p : Payload) (lock : Bool := false) : Message :=
  { priority := 1, lock := lock, source := source, dest := dest, payload := p }

/-- A message read as it was sent. -/
def heard (m : Message) (boundary : Bool := false) : Reception :=
  { chars := m.chars.map fun b => { value := b, stopRecessive := true }, boundary := boundary, trailer := none }

/-- What a station in RUN decided a trailer by, its queue not full and its latch clear. -/
def runTrailer : Trailer := { errorState := .run, holdState := .run, closing := false, full := false, latched := false }

/-- An attempt of the node's own under way. -/
def sending (s : State) (id : SlotId) (m : Message) : State :=
  { s with line := { s.line with idle := false, attempt := some { slot := id, message := m, snapshot := none, crossed := false } } }

/-- A state with one key's record. -/
def withKey (s : State) (k : Num4) (key : Key) : State := { s with touch := { s.touch with key := s.touch.key.set k key } }

/-- A key bound to the own station 5, mask of channel 0, T = 20, baseline 201. -/
def keyIn (st : KeyState) (hold : Nat) : Key :=
  { Key.untaken with enable := true, bound := 5, mask := 1, threshold := 20, state := st, baseline := 201, hold := hold }

/-! ## WellFormed: an ill-formed term for each check -/

theorem test_shortReadIsIllFormed : (Instr.configurationReadComplete [none, some true]).wellFormed = false := by decide

/-- A trailer decided in LOADING, one filtered in HALTED, and a closing part outside DUMP-RECEIVE. -/
theorem test_trailersOfNoListenerAreIllFormed :
    { runTrailer with errorState := .loading }.wellFormed = false ∧
      { runTrailer with holdState := .halted }.wellFormed = false ∧
      { runTrailer with closing := true }.wellFormed = false ∧
      (Instr.messageAccepted
        { heard (message 3 0 (.shed 63 1)) with trailer := some { runTrailer with closing := true } }).wellFormed = false := by
  decide +kernel

theorem test_characterZeroIsIllFormed : (Instr.arbitrationLoss 0 7).wellFormed = false := by decide

theorem test_characterPastTheEndIsIllFormed : (Instr.arbitrationLoss 25 7).wellFormed = false := by decide

theorem test_bitEightIsIllFormed : (Instr.arbitrationLoss 3 8).wellFormed = false := by decide

theorem test_cutMessageIsIllFormed :
    (Instr.messageAccepted { heard (message 3 0 (.shed 63 1)) with chars := [] }).wellFormed = false ∧
      (Instr.messageFailed { heard (message 3 0 (.shed 63 1)) with chars := [] } false false).wellFormed = false ∧
      (Instr.abandon (.trailer { heard (message 3 0 (.shed 63 1)) with chars := [] } false false)).wellFormed = false := by
  decide

theorem test_stationsOutsideOneToThirtyAreIllFormed :
    (Instr.silenceLimit 0 .endOfCount).wellFormed = false ∧ (Instr.silenceLimit 31 .slnEdge).wellFormed = false := by decide

theorem test_wellFormed :
    (Instr.configurationReadComplete (driven goodImage)).wellFormed = true ∧ runTrailer.wellFormed = true ∧
      (Instr.messageAccepted (heard (message 3 0 (.shed 63 1)))).wellFormed = true ∧
      (Instr.arbitrationLoss 24 0).wellFormed = true ∧ (Instr.silenceLimit 30 .slnEdge).wellFormed = true := by
  decide +kernel

/-! ## The spec's worked examples -/

/-- 1.4: the state check of the example, and of the same entries in the other order. -/
theorem test_stateCheckExample :
    let r := { exampleReplica with roster := [{ station := 3, incarnation := 0 }, { station := 7, incarnation := 2 }] }
    stateCheck r = 27601 ∧ stateCheck { r with claims := [claim7, claim3] } = 61067 := by
  decide

/-- 3.3: the check of a node QUERY from station 20 to station 7, and the message read back. -/
theorem test_messageCheckExample :
    let m : Message := { priority := 3, lock := false, source := 20, dest := 7, payload := .query .node }
    m.chars = [216, 20, 7, 1, 0, 1, 25] ∧ readMessage m.chars = some m := by
  decide

/-- 1.5: a partial placement (here from length 49 down, to keep the test short), a move, and a shortening. -/
theorem test_searchExample :
    placementSearch exampleReplica.slotMap 30 8 12 49 none = some { start := 72, len := 48 } ∧
      placementSearch (addOver (addOver emptyMap 8 40 10) 72 48 12) 30 8 12 60 (some { start := 72, len := 48 }) =
        some { start := 8, len := 60 } ∧
      placementSearch (addOver exampleReplica.slotMap 72 48 12) 30 8 12 30 (some { start := 72, len := 48 }) =
        some { start := 72, len := 30 } := by
  decide +kernel

/-- R18: nothing fits where every slot is too full. -/
theorem test_searchNone : placementSearch (addOver emptyMap 8 112 30) 30 8 12 60 none = none := by decide +kernel

def shedClaims : List Claim :=
  [ { station := 3, channel := 0, cls := 2, units := 10, start := 8, len := 40 }
  , { station := 7, channel := 0, cls := 0, units := 20, start := 8, len := 64 }
  , { station := 5, channel := 2, cls := 2, units := 10, start := 40, len := 40 }
  , { station := 9, channel := 1, cls := 1, units := 8, start := 72, len := 40 } ]

def shedReplica : Replica :=
  { exampleReplica with
    claims := shedClaims, shed := 0
    slotMap := addOver (addOver (addOver (addOver emptyMap 8 40 10) 8 64 20) 40 40 10) 72 40 8 }

/-- 4.5: the shedding order. -/
theorem test_sheddingExample :
    (shedLoop 30 4 shedReplica).2 = [shedClaims[2]] ∧ (shedLoop 20 4 shedReplica).2 = [shedClaims[2], shedClaims[0]] := by
  decide +kernel

/-- 10.6: the digest, and the pairs of codes. -/
theorem test_digestExample :
    weightedSum [2, 1, 4, 3, 32, 64] = 572 ∧ imageValid goodImage = true ∧
      imageValid (imageOf (imageBody [0x5A, 0x4B, 1, 0, 4, 3, 32, 64])) = false := by
  decide +kernel

/-- 9.8: the values measured in turn at key 0. -/
def measured (k : Key) : List Nat → Key × List Bool
  | [] => (k, [])
  | v :: vs =>
    let x := k.measure v
    let y := measured x.1 vs
    (y.1, x.2 :: y.2)

/-- 9.8: calibration. -/
theorem test_calibrationExample :
    (measured { keyIn .calibrating 0 with baseline := 0 } [201, 203, 200, 202, 199, 204, 201, 202]).1.state = .released ∧
      (measured { keyIn .calibrating 0 with baseline := 0 } [201, 203, 200, 202, 199, 204, 201, 202]).1.baseline = 201 := by
  decide

/-- 9.8: a short press gives one TOGGLE, at its release. -/
theorem test_pressExample :
    (measured (keyIn .released 0) [240, 238, 236]).1.state = .pressed ∧
      (measured (keyIn .released 0) [240, 238, 236, 205, 203, 202]).2 = [false, false, false, false, false, true] ∧
      (measured (keyIn .released 0) [240, 238, 236, 205, 203, 202]).1.state = .released := by
  decide

/-- 9.8: a pad fault. -/
theorem test_padFaultExample :
    (measured (keyIn .released 0) [4095, 4095, 4095]).1.state = .pressed ∧
      (measured (keyIn .released 0) [4095, 4095, 4095, 4095]).1.state = .faultOverflow ∧
      (measured (keyIn .released 0) [4095, 4095, 4095, 4095]).2 = [false, false, false, false] := by
  decide

/-- 7.8: the channel of the example, event by event, from DARK with last-lit 60. -/
theorem test_channelExample :
    let c₀ : Channel :=
      { units := 12, cls := 2, defaultLevel := 0, target := 0, lastLit := 60, state := .dark, owed := false, revised := false }
    let c₁ := c₀.operate 112 .toggle 0
    let c₂ := c₁.taken.outcome true (.placed { start := 72, len := 48 })
    let c₃ := c₂.relief.taken.outcome true (.placed { start := 8, len := 60 })
    let c₄ := (c₃.operate 112 .stepDown 20).taken.outcome true (.placed { start := 8, len := 40 })
    let c₅ := (c₄.opened true).taken.outcome false .released
    let c₆ := c₅.operate 112 .toggle 0
    (c₁.state = .seeking ∧ c₁.target = 60 ∧ c₁.owed = true) ∧ (c₂.state = .dimmed ∧ c₂.owed = false) ∧
      (c₃.state = .lit ∧ c₃.owed = false) ∧ (c₄.state = .lit ∧ c₄.target = 40 ∧ c₄.lastLit = 60) ∧
      (c₅.state = .faulted ∧ c₅.owed = false) ∧ (c₆.state = .seeking ∧ c₆.target = 0 ∧ c₆.lastLit = 40) := by
  decide

/-- 4.2: the two entries of the example's PLACE, applied in order. -/
theorem test_placeEntriesExample :
    let before : Replica :=
      { exampleReplica with
        claims :=
          [ claim3, { station := 5, channel := 0, cls := 2, units := 12, start := 48, len := 24 }
          , { station := 5, channel := 1, cls := 1, units := 8, start := 72, len := 20 } ]
        slotMap := addOver (addOver (addOver emptyMap 8 40 10) 48 24 12) 72 20 8 }
    let x :=
      placeEntries 8 30 5 before
        [ { channel := 0, cls := 2, units := 12, start := 0, len := 0 }
        , { channel := 1, cls := 1, units := 8, start := 8, len := 60 } ]
    x.2 = [(0, .released), (1, .placed { start := 8, len := 60 })] ∧
      x.1.claims = [claim3, { station := 5, channel := 1, cls := 1, units := 8, start := 8, len := 60 }] ∧
      x.1.slotMap = addOver (addOver emptyMap 8 40 18) 48 20 8 := by
  decide +kernel

/-! ## Step, reset and start-up: the statements' hypotheses are met -/

theorem test_stepRunsFront :
    let s := { node .run 5 with pending := [.slotBoundary, .lineIdle] }
    after (step s) (fun t => t.timer.slot == 6 && t.pending == [.lineIdle]) = true ∧
      after (step State.reset) (· == State.reset) = true := by
  decide +kernel

theorem test_coldResetKeepsQueueAndCause :
    let s := { node .halted 5 with ctl := { (node .halted 5).ctl with haltCause := .duplicate } }
    after (exec (.coldReset .resetn) s) (fun t => t.ctl.station == .loading && t.ctl.haltCause == .duplicate) = true ∧
      after (exec (.coldReset .powerOn) s) (· == State.reset) = true := by
  decide +kernel

/-- Straps 1, 30, 0 and 31, each as the first command after reset. -/
theorem test_strapsWitness :
    (State.reset.ctl.station = .loading ∧ State.reset.loader.phase = .waiting) ∧
      after (exec (.configurationLoaderStart 1) State.reset) (fun t => t.loader.phase == .reading && t.own == 1) = true ∧
      after (exec (.configurationLoaderStart 30) State.reset) (fun t => t.loader.phase == .reading && t.own == 30) = true ∧
      after (exec (.configurationLoaderStart 0) State.reset) (fun t => t.ctl.haltCause == .strap && t.faultN) = true ∧
      after (exec (.configurationLoaderStart 31) State.reset) (fun t => t.ctl.haltCause == .strap) = true := by
  decide +kernel

/-- A node whose straps have been read. -/
def reading : State :=
  { State.reset with loader := { State.reset.loader with phase := .reading, strap := 5, pins := .transaction } }

/-- R175: the image is what its memory drives; an absent memory reads as 64 bytes of 255. -/
theorem test_readImage :
    readImage (driven goodImage) = goodImage ∧ readImage undriven = List.replicate 64 255 ∧ readImage [] = List.replicate 64 255 := by
  decide +kernel

theorem test_validImageWitness :
    (reading.ctl.station = .loading ∧ reading.loader.phase = .reading ∧ imageValid (readImage (driven goodImage)) = true) ∧
      after (exec (.configurationReadComplete (driven goodImage)) reading) (fun t =>
        t.ctl.station == .joinSend && t.loader.digest == 572 && t.timer.adoptionWait == 256 &&
          (t.chans.get 0).target == 60 && (t.chans.get 1).lastLit == 120 && (t.chans.get 2).target == 120 &&
          (t.chans.get 3).state == .unused && (t.touch.key.get 0).state == .calibrating &&
          (t.touch.key.get 3).state == .disabled) = true := by
  decide +kernel

/-- One item out of its range at a time: guard 9, budget 0 and 1024, presence 15, and a wrong check. -/
theorem test_invalidImageWitness :
    (∀ l ∈ [[0x5A, 0x4B, 2, 1, 9, 3, 32, 64], [0x5A, 0x4B, 2, 1, 4, 0, 0, 64], [0x5A, 0x4B, 2, 1, 4, 4, 0, 64],
        [0x5A, 0x4B, 2, 1, 4, 3, 32, 15], [0x5B, 0x4B, 2, 1, 4, 3, 32, 64]], imageValid (imageOf (imageBody l)) = false) ∧
      imageValid (imageBody imageLine ++ [0, 0]) = false ∧
      (imageValid (readImage undriven) = false ∧ imageValid (readImage (driven (imageBody imageLine ++ [0, 0]))) = false) ∧
      after (exec (.configurationReadComplete (driven (imageBody imageLine ++ [0, 0]))) reading)
        (fun t => t.ctl.haltCause == .config && t.loader.pins == .atRest) = true := by
  decide +kernel

/-! ## Slots and periods -/

theorem test_periodStartWitness :
    StartsPeriod .periodEndOfCount (member 127) ∧ StartsPeriod .slnFallingEdge (member 96) ∧
      StartsPeriod .slnFallingEdge { node .joinWait 0 with timer := { (node .joinWait 0).timer with started := false } } := by
  unfold StartsPeriod
  decide +kernel

theorem test_periodStartTaken :
    after (exec .periodEndOfCount (member 127))
        (fun t => t.timer.slot == 0 && t.timer.period == 61 && t.slnPulled && t.ctl.presence == 7 &&
          t.ctl.silence == [{ station := 3, count := 1 }, { station := 7, count := 1 }]) = true ∧
      after (exec .slnFallingEdge (node .joinWait 96)) (fun t => t.ctl.joinWait == 31 && !t.slnPulled) = true := by
  decide +kernel

/-- The guard's last slot, and the last boundary before the end of the count. -/
theorem test_edgesAndSlotsWitness :
    ((member 95).ctl.station.timerRuns = true ∧ (member 95).timer.slot < 96 ∧ (member 95).timer.started = true) ∧
      after (exec .slnFallingEdge (member 95)) (· == member 95) = true ∧
      after (exec .slotBoundary (member 126)) (fun t => t.timer.slot == 127) = true ∧
      after (exec .slotBoundary (member 127)) (· == member 127) = true := by
  decide +kernel

/-- A member with a change due at period 61 and one due later, and with or without a late record waiting. -/
def dueMember (late : Bool) : State :=
  let s := member 127
  let s :=
    { s with
      out :=
        { s.out with
          pending := [{ channel := 0, e := 61, placement := some { start := 8, len := 40 } }, { channel := 1, e := 62, placement := none }]
          chan := s.out.chan.set 0 { s.out.chan.get 0 with lowCount := 2 } } }
  if late then withHead s (record 3 (.shed 61 1)) else s

theorem test_outputAtPeriodStartWitness :
    (dueMember false).ctl.station = .run ∧ (dueMember true).ctl.station = .run ∧
      after (exec .periodEndOfCount (dueMember false))
        (fun t => (t.out.chan.get 0).plan == some { start := 8, len := 40 } && (t.out.chan.get 0).lowCount == 0 &&
          t.out.pending.length == 1 && !t.out.blank) = true ∧
      after (exec .periodEndOfCount (dueMember true)) (fun t => t.out.blank && t.out.late == 1) = true := by
  decide +kernel

theorem test_startsArise :
    (member 127).startArises .endOfCount = true ∧ (member 96).startArises .slnEdge = true ∧
      (member 95).startArises .slnEdge = false := by
  decide +kernel

/-- Each count at its last period, at slot 127 or at an edge. -/
def lastCounts (st : StationState) (slot : Nat) : State :=
  let s := if st = .run then member slot else node st slot
  { s with
    timer := { s.timer with adoptionWait := 1 }
    ctl :=
      { s.ctl with
        joinWait := if st = .joinWait then 1 else 0, presence := if st = .run then 1 else 0
        silence := s.ctl.silence.map fun x => { x with count := 63 } }
    line := { s.line with slots := { s.line.slots with cooldown := 1 } } }

theorem test_expiriesWitness :
    let s := lastCounts .run 127
    (s.startArises .endOfCount = true ∧ s.timer.adoptionWait = 1 ∧ s.ctl.presence = 1 ∧ s.line.slots.cooldown = 1 ∧
        s.evictAt ≤ 1020 ∧ isMember s.engine.replica.roster 3 = true ∧ (3 : Nat) ≠ s.own ∧
        silenceOf s.ctl.silence 3 + 1 = s.evictAt ∧ ∃ x ∈ s.ctl.silence, x.station = 3) ∧
      after (exec (.adoptionWaitExpiry .endOfCount) s) (fun t => t.timer.adoptionWait == 0 && t.timer.period == 61) = true ∧
      after (exec (.presenceCountdownExpiry .endOfCount) s) (fun t => t.hasWork .presence) = true ∧
      after (exec (.silenceLimit 3 .endOfCount) s) (fun t => t.hasWork .evict) = true ∧
      after (exec (.placeCooldownExpiry .endOfCount) s) (fun t => t.line.slots.cooldown == 0 && t.timer.period == 61) = true := by
  decide +kernel

theorem test_joinWaitExpiryWitness :
    let s := lastCounts .joinWait 96
    (s.startArises .slnEdge = true ∧ s.ctl.station = .joinWait ∧ s.ctl.joinWait = 1) ∧
      after (exec (.joinWaitExpiry .slnEdge) s)
        (fun t => t.ctl.station == .foundSend && t.line.slots.joinFoundHolds == some .found) = true := by
  decide +kernel

/-- An expiry whose count is not at its last period does not arise (log entry 1). -/
theorem test_expiryNotArising :
    after (exec (.joinWaitExpiry .endOfCount) (node .joinWait 127)) (· == node .joinWait 127) = true ∧
      after (exec (.presenceCountdownExpiry .endOfCount) (member 127)) (· == member 127) = true := by
  decide +kernel

/-- The hold timer at H, at H + 4 and at 4096, bound to the own station and to station 7. -/
theorem test_holdEventsWitness :
    let s := withKey (member 127) 2 (keyIn .pressed 15)
    let u := withKey (member 127) 2 (keyIn .holding 19)
    let v := withKey (member 127) 2 (keyIn .holding 4095)
    let w := withKey (member 127) 2 { keyIn .pressed 15 with bound := 7, ramp := .down }
    (s.startArises .endOfCount = true ∧ s.touch.holdTime = 16 ∧
        ∀ j : Num4, j ≠ 2 → (s.touch.key.get j).state ≠ .pressed ∧ (s.touch.key.get j).state ≠ .holding) ∧
      after (exec (.holdTimeReached 2 .endOfCount) s)
        (fun t => (t.touch.key.get 2).state == .holding && (t.chans.get 0).target == 65) = true ∧
      after (exec (.holdStep 2 .endOfCount) u) (fun t => (t.touch.key.get 2).hold == 20 && (t.chans.get 0).target == 65) = true ∧
      after (exec (.forcedRelease 2 .endOfCount) v)
        (fun t => (t.touch.key.get 2).state == .calibrating && (t.chans.get 0).target == 60) = true ∧
      after (exec (.holdTimeReached 2 .endOfCount) w)
        (fun t => (t.line.slots.level.get 2).content == some { op := .stepDown, value := 5, dest := 7, mask := 1 } &&
          (t.chans.get 0).target == 60) = true := by
  decide +kernel

/-- Four held keys at one period start: H, 4096, H with the LEVEL slot's own attempt on the line, and H + 4. The steps go in key
order, and the round begins at key 0 or goes on. -/
def heldKeys : State :=
  let s := sending (member 127) (.level 2) (message 5 7 (.level .toggle 1 0))
  { s with
    touch :=
      { s.touch with
        key :=
          { c0 := { keyIn .pressed 15 with ramp := .down }, c1 := keyIn .holding 4095
            c2 := { keyIn .pressed 15 with bound := 7 }, c3 := keyIn .holding 19 } } }

theorem test_heldKeysWitness :
    StartsPeriod .periodEndOfCount heldKeys ∧
      after (exec .periodEndOfCount heldKeys)
        (fun t => t.touch.key.map (·.state) == { c0 := .holding, c1 := .calibrating, c2 := .holding, c3 := .holding } &&
          t.touch.key.map (·.hold) == { c0 := 16, c1 := 0, c2 := 16, c3 := 20 } &&
          (t.chans.get 0).target == 60 && t.touch.scan == some 0 &&
          t.line.slots.level.get 2 ==
            { ctl := .clear, content := none, followOn := some { op := .stepUp, value := 5, dest := 7, mask := 1 } }) = true ∧
      after (exec .periodEndOfCount { heldKeys with touch := { heldKeys.touch with scan := some 3 } })
        (fun t => t.touch.scan == some 3) = true ∧
      after (exec .periodEndOfCount (quiet 127)) (fun t => t.touch.scan == none && t.chans == (quiet 127).chans) = true ∧
      after (exec (.holdTimeReached 2 .endOfCount) heldKeys) (fun t => (t.touch.key.get 2).hold == 16) = true := by
  unfold StartsPeriod
  decide +kernel

/-! ## The share line: receiving -/

/-- A dump build of station 3 under way in DUMP-RECEIVE. -/
def building (roster : List Member) (closing : Bool) : State :=
  let s := node .dumpReceive 5
  { s with
    engine :=
      { s.engine with
        build :=
          some
            { source := 3, rosterCount := 2, claimCount := 0, shed := 0, stateCount := 4, phase := .roster, roster := roster
              cursor := none, claims := [], occupancy := emptyMap, received := 0, spoiled := false, closing := closing } }
    line := { s.line with runOwner := some 3 } }

theorem test_idleAndRunTimeoutWitness :
    let s := { member 5 with line := { (member 5).line with runOwner := some 7 } }
    let b := building [] false
    (s.ctl.station.listening = true ∧ s.line.attempt = none ∧ b.ctl.station.listening = true ∧ b.line.attempt = none) ∧
      after (exec .lineIdle s) (fun t => t.line.idle) = true ∧
      after (exec .messageCutShort s) (fun t => t.line.idle && t.line.runOwner == some 7) = true ∧
      after (exec .runLockTimeout s) (fun t => t.line.runOwner == none && t.ctl.station == .run) = true ∧
      after (exec .runLockTimeout b) (fun t => t.ctl.station == .joinSend && t.engine.build == none) = true ∧
      after (exec .runLockTimeout (building [] true))
        (fun t => t.ctl.station == .dumpReceive && t.engine == (building [] true).engine && t.line.runOwner == none) = true := by
  decide +kernel

/-- R48, R47, R46, R31: destination 31, a form error, a FOUND in RUN, an e before last-e, and a full queue. -/
theorem test_trailerSignalsWitness :
    let s := { member 5 with line := { (member 5).line with lastE := 63 } }
    let full := { s with line := { s.line with inbound := List.replicate 8 (record 3 (.shed 63 1)) } }
    let nobody : Reception :=
      { chars := [217, 3, 31, 0, 0, 0].map fun b => { value := b, stopRecessive := true }, boundary := false, trailer := none }
    let bad : Reception :=
      { chars := [217, 3, 0, 0, 0, 0].map fun b => { value := b, stopRecessive := true }, boundary := false, trailer := none }
    (nobody.toNobody = true ∧ s.signalsError nobody = false) ∧
      (bad.toNobody = false ∧ bad.message = none ∧ s.signalsError bad = true) ∧
      s.signalsError (heard (message 3 0 (.found 60 572))) = true ∧
      s.signalsError (heard (message 3 0 (.shed 62 1))) = true ∧
      s.signalsError (heard (message 3 0 (.shed 192 1))) = true ∧
      s.signalsError (heard (message 3 0 (.shed 191 1))) = false ∧
      s.signalsError (heard (message 3 0 (.shed 63 1))) = false ∧
      s.signalsHold (heard (message 3 0 (.shed 63 1))) = false ∧
      full.signalsHold (heard (message 3 0 (.shed 63 1))) = true ∧
      (s.admits (heard (message 3 5 (.query .node))) (message 3 5 (.query .node)) = true ∧
        s.admits (heard (message 3 6 (.query .node))) (message 3 6 (.query .node)) = false) := by
  decide +kernel

/-- R50, R53: a station that has left RUN since the last stop bit, its veto standing; a queue that was full at the HOLD slot's start,
with 7 records left since, and with 4. -/
theorem test_trailerWithinEvents :
    let late := heard (message 3 0 (.shed 62 1))
    let left := { late with trailer := some { runTrailer with holdState := .joinSend } }
    let s := { joining with line := { joining.line with lastE := 63 } }
    let m := { heard (message 3 0 (.shed 63 1)) with trailer := some { runTrailer with full := true } }
    let kept := fun k : Nat => { member 5 with line := { (member 5).line with inbound := List.replicate k (record 3 (.shed 63 1)) } }
    (s.signalsError late = false ∧ s.signalsError left = true) ∧
      after (exec (.messageFailed left false false) s) (fun t => t.line.errorsSignalled == 1) = true ∧
      ((kept 7).signalsHold m = true ∧ (kept 4).signalsHold m = true) ∧
      after (exec (.messageFailed m false false) (kept 7)) (fun t => t.line.holdsSignalled == 1 && t.line.holdLatch) = true ∧
      after (exec (.messageFailed m false false) (kept 4)) (fun t => t.line.holdsSignalled == 1 && !t.line.holdLatch) = true ∧
      after (exec (.messageAccepted m) (kept 7)) (· == kept 7) = true := by
  decide +kernel

theorem test_acceptedInRunWitness :
    let m := message 3 0 (.shed 63 1)
    let left := { runTrailer with holdState := .dumpReceive, closing := true }
    let found := message 3 0 (.found 58 572)
    let heardFound := { heard found with trailer := some { left with errorState := .dumpReceive } }
    AcceptsOther (member 5) (heard m) m ∧ (member 5).ctl.station = .run ∧
      AcceptsOther (member 5) { heard m with trailer := some left } m ∧ AcceptsOther (member 5) heardFound found ∧
      after (exec (.messageAccepted heardFound) (member 5)) (fun t => t.line.lastE == 58 && t.line.inbound == []) = true ∧
      after (exec (.messageAccepted (heard m)) (member 5))
        (fun t => t.line.inbound == [record 3 (.shed 63 1)] && t.line.lastE == 63 && !t.line.idle) = true ∧
      after (exec (.messageAccepted { heard m with trailer := some left }) (member 5))
        (fun t => t.line.inbound == [] && t.line.lastE == 63) = true := by
  unfold AcceptsOther Accepts
  decide +kernel

/-- A PRESENCE, a FOUND and a DUMP-OPEN of period 200, in the states that adopt it, without and with a period start across. -/
theorem test_periodAdoptedWitness :
    let p := message 3 0 (.presence 200 4 27601 0)
    let f := message 3 0 (.found 200 572)
    let s := { node .joinSend 5 with timer := { (node .joinSend 5).timer with adoptionWait := 64 } }
    AcceptsOther s (heard p) p ∧ AcceptsOther s (heard p true) p ∧ AcceptsOther (node .foundSend 5) (heard f) f ∧
      after (exec (.messageAccepted (heard p)) s) (fun t => t.timer.period == 200 && t.timer.adoptionWait == 0) = true ∧
      after (exec (.messageAccepted (heard p true)) s) (fun t => t.timer == s.timer) = true ∧
      after (exec (.messageAccepted (heard f)) (node .foundSend 5)) (fun t => t.timer.period == 200) = true := by
  unfold AcceptsOther Accepts
  decide +kernel

theorem test_acceptanceHaltsWitness :
    let m := message 5 0 (.shed 63 1)
    let f := message 3 0 (.found 60 571)
    Accepts (member 5) (heard m) m ∧ m.source = (member 5).own ∧ (member 5).line.attempt = none ∧
      Accepts (node .joinWait 5) (heard f) f ∧
      after (exec (.messageAccepted (heard m)) (member 5)) (fun t => t.ctl.haltCause == .duplicate && t.faultN) = true ∧
      after (exec (.messageAccepted (heard f)) (node .joinWait 5)) (fun t => t.ctl.haltCause == .mismatch) = true := by
  unfold Accepts
  decide +kernel

/-- R127: a FOUND of period 60 and of another digest halts FOUND-SEND; its period is not adopted, and the adoption wait stands. -/
theorem test_haltTakesNothingElse :
    let f := message 3 0 (.found 60 571)
    let n := node .foundSend 5
    let s := { n with timer := { n.timer with period := 9, adoptionWait := 64, slnPull := true } }
    Accepts s (heard f) f ∧
      after (exec (.messageAccepted (heard f)) s)
        (fun t => t.ctl.haltCause == .mismatch && t.timer == { s.timer with slnPull := false } && t.line.lastE == s.line.lastE &&
          t == s.haltedBy .mismatch) = true := by
  unfold Accepts
  decide +kernel

/-- A loss after the source field: at a recessive bit of the length character, 2, and at one of destination 7, character 3. -/
theorem test_haltedBlocksWitness :
    let s := sending (member 5) .place (message 5 0 (.shed 63 1))
    sendsRecessive (message 5 0 (.shed 63 1)).chars 4 1 = true ∧
      sendsRecessive (message 5 7 (.query .node)).chars 3 0 = true ∧
      after (exec (.arbitrationLoss 4 1) s)
        (fun t => t.ctl.station == .halted && t.faultN && t.line.inbound == [] && t.own == 5 &&
          t.chans.map (·.state) == { c0 := .seeking, c1 := .dark, c2 := .unused, c3 := .unused } &&
          t.chans.map (·.owed) == { c0 := true, c1 := false, c2 := false, c3 := false }) = true := by
  decide +kernel

def dumpOpen : DumpOpen :=
  { period := 60, lastE := 63, shed := 1, stateCount := 4, digest := 572, rosterCount := 2, claimCount := 0 }

theorem test_joinerDecisionsWitness :
    let o := message 3 0 (.dumpOpen dumpOpen) true
    let f := message 3 0 (.found 60 572)
    let p := message 3 0 (.dumpPart (.cursor .invalid))
    AcceptsOther (node .joinWait 5) (heard o) o ∧ AcceptsOther (node .foundSend 5) (heard o true) o ∧
      AcceptsOther (node .joinWait 5) (heard f) f ∧ AcceptsOther (building [] false) (heard p) p ∧
      after (exec (.messageAccepted (heard o)) (node .joinWait 5))
        (fun t => t.ctl.station == .dumpReceive && t.engine.build.isSome) = true ∧
      after (exec (.messageAccepted (heard o true)) (node .joinWait 5)) (fun t => t.ctl.station == .joinWait) = true ∧
      after (exec (.messageAccepted (heard o true)) (node .foundSend 5)) (fun t => t.ctl.station == .joinSend) = true ∧
      after (exec (.messageAccepted (heard f)) (node .joinWait 5)) (fun t => t.ctl.station == .joinSend) = true ∧
      after (exec (.messageAccepted (heard p)) (building [] false))
        (fun t => t.ctl.station == .dumpReceive && t.engine.build.any (·.closing)) = true ∧
      after (exec (.messageAccepted (heard (message 3 0 (.presence 60 4 27601 0)))) (building [] false))
        (fun t => t.ctl.station == .joinSend && t.ctl.rejoins == 1) = true ∧
      AcceptsOther (building [] true) (heard (message 3 0 (.shed 63 1))) (message 3 0 (.shed 63 1)) ∧
      after (exec (.messageAccepted (heard (message 3 0 (.shed 63 1)))) (building [] true))
        (fun t => t.ctl.station == .dumpReceive && t.ctl.rejoins == 0 && t.engine == (building [] true).engine &&
          t.line.inbound.length == 1) = true := by
  unfold AcceptsOther Accepts
  decide +kernel

/-- R31, R53, R55, R59, R27: the marks and the queue of a joiner. JOIN-SEND takes an e-stamp, not the record, and queues a LEVEL;
JOIN-WAIT queues the DUMP-OPEN, takes its last-e and its source as the run's owner, which JOIN-WAIT, waiting on, does as well;
FOUND-SEND follows a run it has no part in to its end; DUMP-RECEIVE queues a DUMP-PART and a QUERY, no SHED before the closing part,
and adopts no period; a dump that fails leaves the queue empty. -/
theorem test_joinerMarks :
    let p := message 3 0 (.shed 63 1) true
    let l := message 3 5 (.level .toggle 1 0)
    let o := message 3 0 (.dumpOpen dumpOpen) true
    let part := message 3 0 (.dumpPart (.roster [])) true
    let q := message 7 5 (.query .node)
    let presence := message 7 0 (.presence 200 4 27601 0)
    let followed := { node .foundSend 5 with line := { (node .foundSend 5).line with runOwner := some 3 } }
    let cursor := message 3 0 (.dumpPart (.cursor .invalid)) true
    (AcceptsOther joining (heard p) p ∧ AcceptsOther joining (heard l) l ∧ AcceptsOther followed (heard l) l ∧
        AcceptsOther (building [] false) (heard cursor) cursor ∧ AcceptsOther (building [] true) (heard q) q ∧
        AcceptsOther (building [] false) (heard presence) presence) ∧
      (heard part).message = none ∧
      after (exec (.messageAccepted (heard p)) joining)
        (fun t => t.line.lastE == 63 && t.line.runOwner == some 3 && t.line.inbound == [] && t.engine == joining.engine &&
          t.chans == joining.chans) = true ∧
      after (exec (.messageAccepted (heard l)) joining) (fun t => t.line.inbound == [record 3 l.payload]) = true ∧
      after (exec (.messageAccepted (heard o)) (node .joinWait 5))
        (fun t => t.line.lastE == 63 && t.line.runOwner == some 3 && t.line.inbound.length == 1) = true ∧
      after (exec (.messageAccepted (heard o true)) (node .joinWait 5))
        (fun t => t.line.lastE == 63 && t.line.runOwner == some 3 && t.line.inbound.length == 1) = true ∧
      after (exec (.messageAccepted (heard l)) followed)
        (fun t => t.line.runOwner == none && t.line.inbound.length == 1 && t.ctl.station == .foundSend) = true ∧
      after (exec (.messageAccepted (heard cursor)) (building [] false))
        (fun t => t.line.runOwner == some 3 && t.line.inbound.length == 1 && t.engine == (building [] false).engine) = true ∧
      after (exec (.messageAccepted (heard q)) (building [] true)) (fun t => t.line.inbound == [record 7 q.payload]) = true ∧
      after (exec (.messageAccepted (heard presence)) (building [] false))
        (fun t => t.timer == (building [] false).timer && t.line.inbound == [] && t.ctl.station == .joinSend) = true := by
  unfold AcceptsOther Accepts
  decide +kernel

/-! ## The share line: sending -/

theorem test_attemptStartFieldsWitness :
    let p := { quiet 63 with line := { (quiet 63).line with slots := { (quiet 63).line.slots with presenceWork := true } } }
    let asked := fun (s : State) (what : What) =>
      { s with line := { s.line with slots := { s.line.slots with reportHolds := some { querier := 20, what := what } } } }
    let q := asked (node .joinWait 5) .node
    let r := asked (quiet 5) .channels
    let f :=
      { node .foundSend 31 with
        line := { (node .foundSend 31).line with slots := { TxSlots.empty with joinFoundHolds := some .found } } }
    (joining.opportunity = true ∧ joining.ownRun = false ∧ joining.timer.adoptionWait = 0 ∧
        joining.line.slots.joinFound.held = false) ∧
      (p.opportunity = true ∧ p.ownRun = false ∧ p.line.inbound = [] ∧ p.timer.slot ≤ 63 ∧ p.toEvict = [] ∧
        ∀ n, (p.chans.get n).owed = false) ∧
      (f.opportunity = true ∧ f.ownRun = false ∧ f.line.slots.joinFound.held = false) ∧
      (q.opportunity = true ∧ q.select (allSlots.filter q.ready) = some .report ∧ r.opportunity = true ∧
        r.select (allSlots.filter r.ready) = some .report) ∧
      after (exec .attemptStart f) (fun t => t.line.attempt.any fun a => a.message.payload == .found 60 572) = true ∧
      after (exec .attemptStart r)
        (fun t => t.line.attempt.any fun a =>
          a.message.payload ==
            .report .channels [2, 60, 255, 255, 1, 0, 255, 255, 0, 0, 255, 255, 0, 0, 255, 255]) = true ∧
      after (exec .attemptStart joining) (fun t => t.line.attempt.any fun a => a.message.payload == .join 63 572) = true ∧
      after (exec .attemptStart p)
        (fun t => t.line.attempt.any fun a => a.message.payload == .presence 60 4 p.engine.heldCheck 0) = true ∧
      after (exec .attemptStart q) (fun t => t.line.attempt.any fun a => a.message.dest == 20) = true := by
  decide +kernel

/-- R93: nothing is ready; R92: of a DUMP and an EVICT, both of priority 0, the one of the lower kind. -/
theorem test_attemptStartSelectsWitness :
    let s := quiet 5
    let d :=
      { s with
        engine := { s.engine with dumpOwed := true }
        ctl := { s.ctl with silence := [{ station := 3, count := 64 }, { station := 7, count := 63 }] } }
    let l :=
      { s with
        line :=
          { s.line with
            slots :=
              { s.line.slots with
                level :=
                  s.line.slots.level.set 3
                    { ctl := .clear, followOn := none, content := some { op := .toggle, value := 0, dest := 7, mask := 1 } } } } }
    (s.opportunity = true ∧ allSlots.filter s.ready = []) ∧
      (d.opportunity = true ∧ d.select (allSlots.filter d.ready) = some .dump ∧ d.line.slots.dumpRun = none) ∧
      d.toEvict = [{ station := 3, incarnation := 0 }] ∧ (d.buildFor .dump).2.isSome = true ∧
      (l.select (allSlots.filter l.ready) = some (.level 3) ∧ (l.line.slots.level.get 3).content ≠ none) ∧
      after (exec .attemptStart s) (fun t => t.line.attempt.isNone) = true ∧
      after (exec .attemptStart d)
        (fun t => t.line.attempt.any fun a => a.slot == .dump && a.message.lock && a.snapshot.isSome) = true ∧
      after (exec .attemptStart l) (fun t => t.line.attempt.any fun a => a.slot == .level 3 && a.message.dest == 7) = true := by
  decide +kernel

/-- R99: a dump run with parts left, at its last position. -/
theorem test_dumpPartBuildWitness :
    let s := quiet 5
    let run : DumpRun := { snapshot := s.snapshot, position := 0 }
    let d := { s with line := { s.line with runOwner := some 5, slots := { s.line.slots with dumpRun := some run } } }
    run.snapshot.parts.length = 4 ∧ (∀ i < 4, run.snapshot.parts[i]? ≠ none) ∧
      after (exec .attemptStart d) (fun t => t.line.attempt.any fun a => a.slot == .dump && a.message.lock) = true := by
  decide +kernel

/-- Channel 0 owed with room at slot 8, and with no room anywhere. -/
def placing (room : Bool) : State :=
  let s := member 5
  if room then s
  else { s with engine := { s.engine with replica := { s.engine.replica with slotMap := addOver emptyMap 8 112 30 } } }

theorem test_attemptStartPlaceWitness :
    (∀ room, let s := placing room
      (s.opportunity = true ∧ s.ownRun = false ∧ s.ctl.station = .run ∧ s.line.inbound = [] ∧ s.line.slots.cooldown = 0 ∧
        s.line.slots.place.held = false ∧ s.anyOwed = true ∧ s.engine.dumpOwed = false ∧ s.toEvict = [] ∧
        s.line.slots.presenceWork = false ∧ ∀ k, (s.line.slots.level.get k).content = none)) ∧
      (placing true).placeBuild.entries = [{ channel := 0, cls := 2, units := 12, start := 72, len := 48 }] ∧
      (placing false).placeBuild.entries = [] ∧
      after (exec .attemptStart (placing true))
        (fun t => t.line.attempt.any fun a => a.message.priority == 3 && a.message.payload.e == some 63) = true ∧
      after (exec .attemptStart (placing false)) (fun t => t.line.attempt.isNone && (t.chans.get 0).state == .waiting) = true := by
  decide +kernel

/-- R20: the second channel of a build sees the slots that the first has taken. -/
theorem test_placeBuildWitness :
    let s := { member 5 with chans := (member 5).chans.set 1 { (member 5).chans.get 1 with target := 60, owed := true } }
    s.placeBuild.entries =
        [ { channel := 0, cls := 2, units := 12, start := 72, len := 48 }
        , { channel := 1, cls := 1, units := 8, start := 48, len := 60 } ] ∧
      s.placeBuild.map = addOver (addOver s.engine.replica.slotMap 72 48 12) 48 60 8 ∧ s.placeBuild.freeIndex = 0 := by
  decide +kernel

/-- R16 (log entry 35): an entry of 4 units at a channel of 12 leaves a count of 0 beside an empty slot, and frees the slots all the
same. -/
theorem test_searchBelowZero :
    searchMap (addOver emptyMap 8 4 4) 12 (some { start := 8, len := 4 }) = emptyMap ∧
      placementSearch (addOver emptyMap 8 4 4) 12 8 12 4 (some { start := 8, len := 4 }) = some { start := 8, len := 4 } := by
  decide +kernel

/-- R94, R95: a channel with an entry that shortens, one whose entry stands, one at target 0 with no entry. -/
theorem test_placeContributionWitness :
    let own : List Claim := [{ station := 5, channel := 0, cls := 2, units := 12, start := 8, len := 4 }]
    let b := fun target : Nat =>
      ({ map := addOver emptyMap 8 4 12, entries := [], freeIndex := 0
         chans := (member 5).chans.set 0 { (member 5).chans.get 0 with target := target } } : PlaceBuild)
    (PlaceBuild.channel 30 8 5 own (b 3) 0).entries = [{ channel := 0, cls := 2, units := 12, start := 8, len := 3 }] ∧
      (PlaceBuild.channel 30 8 5 own (b 4) 0).entries = [] ∧
      ((PlaceBuild.channel 30 8 5 own (b 4) 0).chans.get 0).state = .lit ∧
      (PlaceBuild.channel 30 8 5 own (b 0) 0).entries.length = 1 ∧
      ((PlaceBuild.channel 30 8 5 [] (b 0) 0).chans.get 0).state = .dark ∧
      ((PlaceBuild.channel 3 8 5 [] (b 4) 0).chans.get 0).state = .waiting ∧
      PlaceBuild.channel 30 8 5 own (b 4) 1 = b 4 := by
  decide +kernel

/-- R45, R103: an attempt that loses at the second header character, breaks off, and fails in its ERROR and HOLD slots. -/
theorem test_lossAndFailureWitness :
    let m := message 5 0 (.place 63 [{ channel := 0, cls := 2, units := 12, start := 72, len := 48 }])
    let s := sending (member 5) .place m
    (s.line.restartPending = false ∧ s.hasWork .place = true ∧ s.line.slots.reportFollowOn = none ∧
        ∀ k, (s.line.slots.level.get k).followOn = none) ∧
      (sendsRecessive m.chars 2 2 = true ∧ s.receives (heard m) = true ∧ (s.line.slots.ctl .place).attempts < 15) ∧
      after (exec (.arbitrationLoss 2 2) s) (fun t => t.line.attempt.isNone && t.line.slots == s.line.slots) = true ∧
      after (exec .senderBreakOff s) (fun t => t.line.slots.place == { attempts := 1, held := false }) = true ∧
      after (exec (.messageFailed (heard m) true false) s) (fun t => t.line.slots.place == { attempts := 1, held := false }) = true ∧
      after (exec (.messageFailed (heard m) false true) s) (fun t => t.line.slots.place == { attempts := 1, held := true }) = true := by
  decide +kernel

/-- A LEVEL slot's STEP-UP of 8 on the line with a STEP-UP of 8 as follow-on, its count 3 and held mark set. -/
def levelling : State :=
  let step : LevelRequest := { op := .stepUp, value := 8, dest := 7, mask := 1 }
  let s := sending (member 5) (.level 1) (message 5 7 (.level .stepUp 1 8))
  { s with
    line :=
      { s.line with
        slots :=
          { s.line.slots with
            level :=
              s.line.slots.level.set 1
                { ctl := { attempts := 3, held := true }, content := some step, followOn := some step } } } }

/-- R102: a loss and a failure in the HOLD slot merge the follow-on, count 0 and held mark clear after (log entry 28); an acceptance
takes it. -/
theorem test_followOnWitness :
    let m := message 5 7 (.level .stepUp 1 8)
    let merged := fun t : State =>
      (t.line.slots.level.get 1).content.any (·.value == 16) && (t.line.slots.level.get 1).followOn.isNone &&
        (t.line.slots.level.get 1).ctl == { attempts := 0, held := false }
    (levelling.line.restartPending = false ∧ sendsRecessive m.chars 2 2 = true ∧ levelling.receives (heard m) = true) ∧
      after (exec (.arbitrationLoss 2 2) levelling) merged = true ∧
      after (exec .senderBreakOff levelling) merged = true ∧
      after (exec (.messageFailed (heard m) false true) levelling) merged = true ∧
      after (exec (.messageAccepted (heard m)) levelling)
        (fun t => (t.line.slots.level.get 1).content.any (·.value == 8) && (t.line.slots.level.get 1).followOn.isNone) = true := by
  decide +kernel

/-- R57, R106: a restart that waits takes effect at the end of the attempt, however it ends. -/
theorem test_restartAtTheEndWitness :
    let m := message 5 0 (.place 63 [{ channel := 0, cls := 2, units := 12, start := 72, len := 48 }])
    let a := sending (withHead (member 5) (record 3 (.shed 63 1))) .place m
    let s := { a with line := { a.line with restartPending := true, holdLatch := true }, ctl := (node .joinSend 5).ctl }
    let emptied := fun t : State =>
      t.line.slots == { TxSlots.empty with joinFoundHolds := some .join } && t.line.inbound == [] && !t.line.holdLatch &&
        !t.line.restartPending && t.line.abandoned == 0
    Accepts s (heard m) m ∧ s.ctl.station = .joinSend ∧ sendsRecessive m.chars 2 2 = true ∧
      after (exec (.arbitrationLoss 2 2) s) emptied = true ∧ after (exec .senderBreakOff s) emptied = true ∧
      after (exec (.messageFailed (heard m) true false) s) emptied = true ∧
      after (exec (.messageAccepted (heard m)) s) (fun t => emptied t && t.line.lastE == 63) = true := by
  unfold Accepts
  decide +kernel

/-- R51: another station's message that this station vetoes, and one that finds the queue full. -/
theorem test_failedMessageWitness :
    let f := heard (message 3 0 (.found 60 572))
    let m := heard (message 3 0 (.shed 63 1))
    let s := { member 5 with line := { (member 5).line with inbound := List.replicate 8 (record 3 (.shed 63 1)) } }
    (s.receives f = true ∧ s.line.attempt = none ∧ s.signalsError f = true ∧ s.signalsHold m = true) ∧
      after (exec (.messageFailed f false false) s) (fun t => t.line.errorsSignalled == 1 && !t.line.holdLatch) = true ∧
      after (exec (.messageFailed m false false) s) (fun t => t.line.holdsSignalled == 1 && t.line.holdLatch) = true := by
  decide +kernel

/-- The sixteenth failure of each kind of slot, by a break-off; of the PLACE slot by a trailer too. -/
theorem test_abandonWitness :
    let m := message 5 0 (.shed 63 1)
    let last := fun (s : State) (id : SlotId) =>
      { sending s id m with line := { (sending s id m).line with slots := s.line.slots.setCtl id { attempts := 15, held := false } } }
    let lev :=
      { member 5 with
        line :=
          { (member 5).line with
            slots :=
              { (member 5).line.slots with
                level :=
                  (member 5).line.slots.level.set 1
                    { ctl := .clear, content := some { op := .toggle, value := 0, dest := 7, mask := 1 }
                      followOn := some { op := .set, value := 9, dest := 7, mask := 1 } } } } }
    let founding :=
      { node .foundSend 5 with
        line := { joining.line with slots := { joining.line.slots with joinFoundHolds := some .found } } }
    let owing := { member 5 with engine := { (member 5).engine with dumpOwed := true } }
    ((last (member 5) .place).line.restartPending = false ∧ ((last (member 5) .place).line.slots.ctl .place).attempts = 15 ∧
        (last (member 5) .place).fails (heard m) true false = true) ∧
      after (exec (.abandon .breakOff) (last (member 5) .place))
        (fun t => t.line.slots.cooldown == 8 && t.line.abandoned == 1) = true ∧
      after (exec (.abandon (.trailer (heard m) true false)) (last (member 5) .place))
        (fun t => t.line.slots.place == { attempts := 0, held := true }) = true ∧
      after (exec (.abandon .breakOff) (last joining .joinFound)) (fun t => t.ctl.station == .joinSend && t.ctl.rejoins == 0) = true ∧
      after (exec (.abandon .breakOff) (last founding .joinFound))
        (fun t => t.ctl.station == .joinSend && t.ctl.rejoins == 1 && t.line.slots.joinFoundHolds == some .join &&
          t.line.slots.joinFound == { attempts := 0, held := true }) = true ∧
      (after (exec (.abandon .breakOff) (last owing .dump))
        (fun t => !t.engine.dumpOwed && t.line.slots.dump.held) = true ∧
        after (exec (.abandon .breakOff) (last (member 5) .evict))
          (fun t => t.line.slots.evict == { attempts := 0, held := true }) = true ∧
        after (exec (.abandon .breakOff) (last (member 5) .report)) (fun t => t.line.slots.reportHolds == none) = true) ∧
      after (exec (.abandon .breakOff) (last lev (.level 1)))
        (fun t => (t.line.slots.level.get 1).content == some { op := .set, value := 9, dest := 7, mask := 1 }) = true ∧
      after (exec (.abandon .breakOff) (last (member 5) .presence)) (fun t => t.ctl.presence == 16) = true ∧
      after (exec (.abandon .breakOff) (sending (member 5) .place m)) (· == sending (member 5) .place m) = true := by
  decide +kernel

/-- R103, R105, log entries 36 and 37: an abandoned DUMP-PART ends the run of the DUMP slot and leaves the run of the line open, so that
another slot waits; a DUMP-OPEN that fails in the HOLD slot then takes the held mark, as one within the own dump run does not. -/
theorem test_abandonedPart :
    let s := quiet 5
    let run : DumpRun := { snapshot := s.snapshot, position := 1 }
    let part := message 5 0 (.dumpPart (.cursor .invalid)) true
    let o := message 5 0 (.dumpOpen dumpOpen) true
    let d := sending { s with line := { s.line with runOwner := some 5 } } .dump part
    let slots := { TxSlots.empty with dumpRun := some run }
    let last := { d with line := { d.line with slots := slots.setCtl .dump { attempts := 15, held := false } } }
    let within := { d with line := { d.line with slots := slots } }
    let reopened := sending { s with line := { s.line with runOwner := some 5 } } .dump o
    (within.receives (heard part) = true ∧ reopened.receives (heard o) = true) ∧
      after (exec (.abandon .breakOff) last)
        (fun t => t.line.slots.dumpRun == none && t.line.runOwner == some 5 && t.line.slots.dump == { attempts := 0, held := true } &&
          !{ t with line := { t.line with slots := { t.line.slots with presenceWork := true } } }.ready .presence) = true ∧
      after (exec (.messageFailed (heard part) false true) within) (fun t => !t.line.slots.dump.held) = true ∧
      after (exec (.messageFailed (heard o) false true) reopened) (fun t => t.line.slots.dump.held) = true := by
  decide +kernel

theorem test_ownMessageAcceptedWitness :
    let j := message 5 0 (.join 63 572)
    let f := message 5 0 (.found 61 572)
    let p := message 5 0 (.presence 60 4 27601 0)
    let sj := sending joining .joinFound j
    let sf := sending { joining with ctl := (node .foundSend 5).ctl } .joinFound f
    let sp := sending (member 5) .presence p
    Accepts sj (heard j) j ∧ Accepts sf (heard f) f ∧ Accepts sp (heard p) p ∧
      after (exec (.messageAccepted (heard j)) sj) (fun t => t.ctl.station == .joinWait && t.ctl.joinWait == 32) = true ∧
      after (exec (.messageAccepted (heard f)) sf)
        (fun t => t.ctl.station == .run && t.timer.period == 61 && t.ctl.presence == 4 && t.engine.heldCheck == 1287) = true ∧
      after (exec (.messageAccepted (heard p)) sp) (fun t => t.ctl.presence == 16 && t.line.attempt.isNone) = true := by
  unfold Accepts
  decide +kernel

/-- R57, R31: the own FOUND and JOIN accepted while a restart waits. -/
theorem test_acceptedWhileRestartWaits :
    let f := message 5 0 (.found 58 572)
    let j := message 5 0 (.join 63 572)
    let waiting := fun m =>
      let s := sending joining .joinFound m
      { s with line := { s.line with restartPending := true } }
    (Accepts (waiting f) (heard f) f ∧ Accepts (waiting j) (heard j) j) ∧
      after (exec (.messageAccepted (heard f)) (waiting f))
        (fun t => t.line.lastE == 58 && !t.line.restartPending && t.ctl.station == .joinSend) = true ∧
      after (exec (.messageAccepted (heard j)) (waiting j)) (fun t => t.line.lastE == 63 && t.ctl.station == .joinSend) = true := by
  unfold Accepts
  decide +kernel

/-- R98, R99, R104: an own DUMP-OPEN, the last part of its run, a PLACE, an EVICT and a REPORT, the last in DUMP-RECEIVE too. -/
theorem test_ownRunAcceptedWitness :
    let o := message 5 0 (.dumpOpen dumpOpen) true
    let p := message 5 0 (.dumpPart (.cursor .invalid))
    let l := message 5 0 (.place 63 [{ channel := 0, cls := 2, units := 12, start := 72, len := 48 }])
    let v := message 5 0 (.evict 63 [{ station := 7, incarnation := 2 }])
    let q := message 5 20 (.report .channels (List.replicate 16 0))
    let sn := { (member 5).snapshot with claims := [], roster := [] }
    let line := (member 5).line
    let opening : Attempt := { slot := .dump, message := o, snapshot := some sn, crossed := false }
    let so := { member 5 with line := { line with attempt := some opening } }
    let running := { TxSlots.empty with dumpRun := some { snapshot := sn, position := 0 } }
    let sp := sending { member 5 with line := { line with runOwner := some 5, slots := running } } .dump p
    Accepts so (heard o) o ∧ Accepts sp (heard p) p ∧ Accepts (sending (member 5) .place l) (heard l) l ∧
      Accepts (sending (member 5) .evict v) (heard v) v ∧ Accepts (sending (member 5) .report q) (heard q) q ∧
      Accepts (sending (building [] false) .report q) (heard q) q ∧
      after (exec (.messageAccepted (heard o)) so)
        (fun t => t.line.slots.dumpRun == some { snapshot := sn, position := 0 } && t.line.runOwner == some 5 &&
          t.line.lastE == 63 && t.line.inbound.length == 1) = true ∧
      after (exec (.messageAccepted (heard p)) sp) (fun t => t.line.slots.dumpRun == none && t.line.runOwner == none) = true ∧
      after (exec (.messageAccepted (heard l)) (sending (member 5) .place l))
        (fun t => t.line.lastE == 63 && t.hasWork .place && t.line.inbound.length == 1) = true ∧
      after (exec (.messageAccepted (heard q)) (sending (building [] false) .report q))
        (fun t => t.ctl.station == .joinSend && t.line.slots.reportHolds == none) = true := by
  unfold Accepts
  decide +kernel

/-- R116, log entries 8 and 25: an own LEVEL to 0 in DUMP-RECEIVE, queued as it is accepted: before the closing part it fails the dump,
which empties the queue and leaves the JOIN/FOUND slot's held mark; after it the record stays. -/
theorem test_ownLevelFailsTheDump :
    let l := message 5 0 (.level .toggle 1 0)
    let marked := fun s : State =>
      { s with line := { s.line with slots := { s.line.slots with joinFound := { attempts := 3, held := true } } } }
    let before := sending (marked (building [] false)) (.level 1) l
    let closed := sending (marked (building [] true)) (.level 1) l
    Accepts before (heard l) l ∧ Accepts closed (heard l) l ∧
      (before.queueAfter (heard l) l false).length = 1 ∧
      after (exec (.messageAccepted (heard l)) before)
        (fun t => t.line.inbound == [] && t.ctl.station == .joinSend && t.line.slots.joinFound == { attempts := 0, held := true }) = true ∧
      after (exec (.messageAccepted (heard l)) closed)
        (fun t => t.line.inbound.length == 1 && t.ctl.station == .dumpReceive) = true := by
  unfold Accepts
  decide +kernel

/-! ## Applying records -/

/-- A record at the head, alone in the queue. -/
theorem test_atHead (s : State) (r : Record) (h : s.line.restartPending = false) : AtHead (withHead s r) r [] := ⟨rfl, h⟩

/-- A far record of each kind, at forward distances 5 and 128; at 4 and at 129 it is applied. -/
theorem test_farRecordWitness :
    let s := member 5
    ((5 ≤ forward 60 65 ∧ forward 60 65 ≤ 128) ∧ (5 ≤ forward 60 188 ∧ forward 60 188 ≤ 128) ∧ forward 60 64 = 4 ∧
        forward 60 189 = 129) ∧
      after (exec .applyJoin (withHead s (record 3 (.join 65 572)))) (fun t => t.ctl.station == .joinSend) = true ∧
      after (exec .applyEvict (withHead s (record 3 (.evict 188 [{ station := 7, incarnation := 2 }]))))
        (fun t => t.ctl.station == .joinSend) = true ∧
      after (exec .applyPlace (withHead s (record 3 (.place 65 [{ channel := 0, cls := 0, units := 1, start := 8, len := 1 }]))))
        (fun t => t.ctl.rejoins == 1) = true ∧
      after (exec .applyShed (withHead s (record 3 (.shed 188 1))))
        (fun t => t.ctl.station == .joinSend && t.line.slots.joinFoundHolds == some .join) = true ∧
      after (exec .applyShed (withHead s (record 3 (.shed 189 1)))) (fun t => t.ctl.station == .run && t.out.blank) = true ∧
      after (exec .applyShed (withHead s (record 3 (.shed 64 1)))) (fun t => t.ctl.station == .run && !t.out.blank) = true := by
  decide +kernel

/-- (`test_memberKeepsTheLaws` shows the same of `exampleReplica`.) -/
theorem test_shedMapAgrees : MapAgrees shedReplica.claims shedReplica.slotMap := by
  unfold MapAgrees
  decide +kernel

/-- R66: each of the four reasons, and the bounds at which none holds. -/
theorem test_placeEntryWitness :
    let judge := fun (source : Nat) (start len : Byte) =>
      (placeEntry 8 30 source exampleReplica { channel := 1, cls := 0, units := 12, start := start, len := len }).2
    judge 4 8 40 = .rejected .notMember ∧ judge 3 8 113 = .rejected .length ∧ judge 3 8 112 = .rejected .over ∧
      judge 3 7 40 = .rejected .area ∧ judge 3 80 40 = .placed { start := 80, len := 40 } ∧ judge 3 81 40 = .rejected .area ∧
      judge 5 47 40 = .rejected .over ∧ judge 3 8 40 = .rejected .over ∧ judge 5 72 48 = .placed { start := 72, len := 48 } ∧
      judge 3 0 0 = .released ∧ judge 5 0 0 = .noChange := by
  decide +kernel

theorem test_placeRecordWitness :
    let p : PlaceEntry := { channel := 0, cls := 2, units := 12, start := 72, len := 48 }
    let q : PlaceEntry := { channel := 0, cls := 0, units := 0, start := 0, len := 0 }
    let s := { member 5 with chans := (member 5).chans.map Channel.taken }
    ((withHead s (record 5 (.place 63 [p]))).ctl.station = .run ∧ ¬ (5 ≤ forward 60 63 ∧ forward 60 63 ≤ 128)) ∧
      after (exec .applyPlace (withHead s (record 5 (.place 63 [p]))))
        (fun t => t.out.pending == [{ channel := 0, e := 63, placement := some { start := 72, len := 48 } }] &&
          (t.chans.get 0).state == .dimmed && t.engine.replica.stateCount == 5) = true ∧
      after (exec .applyPlace
          (withHead { s with out := { s.out with pending := (dueMember false).out.pending } } (record 5 (.place 61 [p]))))
        (fun t => t.out.pending ==
          [{ channel := 0, e := 61, placement := some { start := 72, len := 48 } }, { channel := 1, e := 62, placement := none }]) =
            true ∧
      after (exec .applyPlace (withHead s (record 5 (.place 63 [{ p with start := 71 }]))))
        (fun t => t.engine.rejected == 1 && (t.chans.get 0).state == .waiting && t.out.pending == []) = true ∧
      after (exec .applyPlace (withHead { s with chans := s.chans.set 0 { s.chans.get 0 with state := .dimmed, owed := false } }
          (record 7 (.place 60 [q]))))
        (fun t => t.engine.replica.claims == [claim3] && (t.chans.get 0).state == .seeking && t.out.blank) = true := by
  decide +kernel

theorem test_joinRecordsWitness :
    let s := quiet 5
    RosterLaw s.engine.replica.roster ∧
      after (exec .applyJoin (withHead s (record 7 (.join 63 572))))
        (fun t => t.engine.replica.claims == [claim3] && t.engine.dumpOwed &&
          memberOf t.engine.replica.roster 7 == some { station := 7, incarnation := 3 }) = true ∧
      after (exec .applyJoin (withHead s (record 4 (.join 63 572))))
        (fun t => t.engine.replica.roster.map (·.station) == [3, 4, 5, 7] && t.ctl.silence.length == 3) = true ∧
      after (exec .applyJoin (withHead s (record 7 (.join 63 571))))
        (fun t => t.engine.replica == exampleReplica && t.engine.dumpOwed && t.ctl == s.ctl) = true ∧
      after (exec .applyJoin (withHead s (record 7 (.join 60 572)))) (fun t => t.out.blank) = true ∧
      after (exec .applyJoin (withHead s (record 5 (.join 63 572))))
        (fun t => t.ctl.ownIncarnation == 1 && memberOf t.engine.replica.roster 5 == some { station := 5, incarnation := 1 }) = true := by
  unfold RosterLaw
  decide +kernel

theorem test_evictRecordWitness :
    let s := quiet 5
    let own : Pair := { station := 5, incarnation := 0 }
    let stale : Pair := { station := 7, incarnation := 1 }
    let other : Pair := { station := 7, incarnation := 2 }
    (pairMatches s.engine.replica.roster own = true ∧ pairMatches s.engine.replica.roster stale = false) ∧
      after (exec .applyEvict (withHead s (record 3 (.evict 63 [stale, other]))))
        (fun t => t.engine.replica.claims == [claim3] && t.ctl.silence.map (·.station) == [3] && !t.out.blank) = true ∧
      after (exec .applyEvict (withHead s (record 3 (.evict 60 [other])))) (fun t => t.out.blank) = true ∧
      after (exec .applyEvict (withHead s (record 3 (.evict 63 [other, own])))) (fun t => t.ctl.station == .joinSend) = true ∧
      after (exec .applyEvict (withHead s (record 3 (.evict 63 [own, other]))))
        (fun t => t.ctl.station == .joinSend && t.engine.replica.roster == []) = true := by
  decide +kernel

/-- R145, R76, R151: the shed channel in each of SEEKING, FAULTED and UNUSED, and another that takes the relief. -/
theorem test_shedRecordWitness :
    let s := fun st =>
      { member 5 with
        engine := { (member 5).engine with replica := shedReplica }
        chans := ((member 5).chans.set 2 { (member 5).chans.get 0 with state := st }).set 0
          { (member 5).chans.get 0 with state := .dimmed, owed := false } }
    let entered : List PendingChange := [{ channel := 2, e := 63, placement := none }]
    after (exec .applyShed (withHead (s .lit) (record 20 (.shed 63 1))))
        (fun t => t.engine.replica.shed == 1 && t.engine.replica.claims.length == 3 && (t.chans.get 2).state == .seeking &&
          (t.chans.get 0).owed && t.out.pending == entered) = true ∧
      after (exec .applyShed
          (withHead { s .lit with out := { (s .lit).out with pending := [{ channel := 2, e := 62, placement := none }] } }
            (record 20 (.shed 63 1))))
        (fun t => t.out.pending == { channel := 2, e := 62, placement := none } :: entered) = true ∧
      after (exec .applyShed (withHead (s .faulted) (record 20 (.shed 63 1))))
        (fun t => (t.chans.get 2).state == .faulted && !(t.chans.get 2).owed && t.out.pending == entered) = true ∧
      after (exec .applyShed (withHead (s .unused) (record 20 (.shed 63 1))))
        (fun t => (t.chans.get 2).state == .unused && t.out.pending == []) = true ∧
      after (exec .applyShed (withHead (member 5) (record 20 (.shed 63 0))))
        (fun t => t.engine.replica.shed == 0 && t.engine.heldCheck + 4096 == (member 5).engine.heldCheck) = true ∧
      after (exec .applyShed (withHead (member 5) (record 20 (.shed 63 1))))
        (fun t => t.engine.replica.stateCount == 5 && t.engine.heldCheck == (member 5).engine.heldCheck) = true := by
  decide +kernel

theorem test_otherRecordsWitness :
    let s := { member 5 with engine := { (member 5).engine with dumpOwed := true } }
    let held :=
      { s with line := { s.line with slots := { s.line.slots with dump := { attempts := 0, held := true } } } }
    after (exec .applyDumpOpen (withHead held (record 3 (.dumpOpen dumpOpen))))
        (fun t => !t.engine.dumpOwed && !t.line.slots.dump.held) = true ∧
      after (exec .applyDumpOpen (withHead held (record 5 (.dumpOpen dumpOpen))))
        (fun t => !t.engine.dumpOwed && t.line.slots.dump.held) = true ∧
      after (exec .applyDumpOpen (withHead s (record 3 (.dumpOpen dumpOpen)))) (fun t => !t.engine.dumpOwed && t.line.inbound == []) =
        true ∧
      after (exec .applyQuery (withHead s (record 20 (.query .channels))))
        (fun t => t.line.slots.reportHolds == some { querier := 20, what := .channels }) = true ∧
      after (exec .discardRecord (withHead s (record 3 (.found 60 572)))) (fun t => t.line.inbound == [] && t.ctl == s.ctl) = true ∧
      after (exec .discardRecord (withHead joining (record 3 (.shed 63 1)))) (fun t => t.line.inbound == []) = true ∧
      after (exec .discardRecord (withHead s (record 3 (.shed 63 1)))) (fun t => t.line.inbound.length == 1) = true := by
  decide +kernel

/-- R83 to R85: roster entries out of order, of stations 0 and 31; a claim of a station not in the Roster, and one over budget. -/
theorem test_dumpPartsWitness :
    let member5 : Member := { station := 5, incarnation := 0 }
    let b : DumpBuild :=
      { source := 3, rosterCount := 2, claimCount := 1, shed := 0, stateCount := 4, phase := .roster, roster := [member5]
        cursor := none, claims := [], occupancy := emptyMap, received := 0, spoiled := false, closing := false }
    let add := fun p => DumpBuild.addPart 8 40 3 b p
    let claim := fun units : Byte => DumpPart.claims 5 [{ channel := 1, cls := 0, units := units, start := 8, len := 112 }]
    (add (.roster [{ station := 5, incarnation := 0 }])).spoiled = true ∧
      (add (.roster [{ station := 0, incarnation := 0 }])).spoiled = true ∧
      (add (.roster [{ station := 31, incarnation := 0 }])).spoiled = true ∧
      (add (.roster [{ station := 30, incarnation := 1 }])).roster = [member5, { station := 30, incarnation := 1 }] ∧
      (add (.cursor .invalid)).phase = .claims ∧ (DumpBuild.addPart 8 40 4 b (.cursor .invalid)).spoiled = true ∧
      (add (claim 40)).claims.length = 1 ∧ (add (claim 40)).spoiled = true ∧ (add (claim 41)).claims = [] ∧
      (add (claim 41)).received = 1 ∧
      (DumpBuild.addPart 8 40 3 { b with phase := .claims } (claim 40)).spoiled = false ∧
      (DumpBuild.addPart 8 40 3 { b with phase := .claims } (.roster [])).spoiled = true ∧
      (add (.roster [])) = b ∧
      (add (.roster [{ station := 7, incarnation := 0 }, { station := 6, incarnation := 0 }])).roster.length = 2 ∧
      (add (.claims 5 [])).spoiled = true := by
  decide +kernel

/-- A build that holds a claim of an own channel. -/
def withOwnClaim (s : State) (n : Num4) : State :=
  { s with
    engine :=
      { s.engine with
        build := s.engine.build.map fun b =>
          { b with
            claimCount := 1, received := 1
            claims := [{ station := 5, channel := n, cls := 1, units := 8, start := 8, len := 4 }]
            occupancy := addOver emptyMap 8 4 8 } } }

theorem test_dumpPartAppliedWitness :
    let members : List Member := [{ station := 3, incarnation := 0 }, { station := 5, incarnation := 4 }]
    let part := record 3 (.dumpPart (.cursor .invalid))
    let s := building members true
    after (exec .applyDumpPart (withHead s part))
        (fun t => t.ctl.station == .run && t.ctl.ownIncarnation == 4 && t.ctl.presence == 4 &&
          t.ctl.silence == [{ station := 3, count := 0 }] && t.engine.build.isNone && t.out.pending == [] &&
          (t.chans.get 0).owed && !(t.chans.get 1).owed) = true ∧
      after (exec .applyDumpPart (withHead (withOwnClaim s 1) part))
        (fun t => t.out.pending == [{ channel := 1, e := 61, placement := some { start := 8, len := 4 } }] &&
          (t.chans.get 1).owed) = true ∧
      after (exec .applyDumpPart (withHead (withOwnClaim s 3) part))
        (fun t => t.out.pending == [] && t.engine.replica.claims.length == 1 && (t.chans.get 3).state == .unused &&
          t.channelReport 3 == [0, 0, 255, 255]) = true ∧
      after (exec .applyDumpPart (withHead (building members.tail true) part))
        (fun t => t.ctl.station == .joinSend && t.ctl.rejoins == 1) = true ∧
      after (exec .applyDumpPart (withHead s { part with lock := true }))
        (fun t => t.ctl.station == .dumpReceive && t.engine.build.any (·.phase == .claims)) = true := by
  decide +kernel

/-- R123 to R125: passed over, matching, mismatching, and the second witness; in a Roster of two, the third mismatch. -/
theorem test_presenceWitness :
    let s := member 5
    let at_ := fun (s : State) (source : Nat) (check : Word16) => withHead s (record source (.presence 60 4 check 0))
    let seen := { s with engine := { s.engine with witnesses := [7], mismatches := 1 } }
    let two :=
      { s with
        engine :=
          { s.engine with
            witnesses := [3], mismatches := 2
            replica := { exampleReplica with roster := [{ station := 3, incarnation := 0 }, { station := 5, incarnation := 0 }] } } }
    after (exec .applyPresence (at_ seen 4 0)) (fun t => t.engine == seen.engine) = true ∧
      after (exec .applyPresence (at_ seen 3 s.engine.heldCheck)) (fun t => t.engine.witnesses == [] && t.engine.mismatches == 0) =
        true ∧
      after (exec .applyPresence (at_ s 3 0)) (fun t => t.engine.witnesses == [3] && t.engine.mismatches == 1) = true ∧
      after (exec .applyPresence (at_ seen 7 0)) (fun t => t.engine.witnesses == [7] && t.engine.mismatches == 2) = true ∧
      after (exec .applyPresence (at_ seen 3 0)) (fun t => t.ctl.station == .joinSend) = true ∧
      after (exec .applyPresence (at_ two 3 0)) (fun t => t.ctl.station == .joinSend && t.line.inbound == []) = true := by
  decide +kernel

/-! ## Lighting -/

theorem test_levelRecordWitness :
    let r := record 20 (.level .stepDown 15 60)
    after (exec .applyLevel (withHead (member 5) r))
        (fun t => (t.chans.get 0).target == 0 && (t.chans.get 0).lastLit == 60 && (t.chans.get 3).state == .unused) = true ∧
      after (exec .applyLevel (withHead joining r)) (fun t => (t.chans.get 0).target == 0) = true := by
  decide +kernel

/-- R133: each operation at its bounds. -/
theorem test_levelOperations :
    newTarget 112 .set 128 5 60 = 112 ∧ newTarget 112 .stepUp 128 0 60 = 112 ∧ newTarget 112 .stepDown 5 5 60 = 0 ∧
      newLastLit 112 .stepDown 5 5 60 = 5 ∧ newLastLit 112 .stepDown 5 0 60 = 60 ∧ newTarget 112 .toggle 0 0 60 = 60 := by
  decide

/-- R101: steps of one direction add up to 128 at most, two toggles cancel, anything else replaces. -/
theorem test_mergeWitness :
    let q := fun op v => ({ op := op, value := v, dest := 7, mask := 1 } : LevelRequest)
    mergeLevel (some (q .stepUp 127)) (q .stepUp 1) = some (q .stepUp 128) ∧
      mergeLevel (some (q .stepUp 128)) (q .stepUp 1) = some (q .stepUp 128) ∧
      mergeLevel (some (q .toggle 0)) (q .toggle 0) = none ∧
      mergeLevel (some (q .stepUp 5)) (q .stepDown 5) = some (q .stepDown 5) ∧
      mergeLevel (some (q .toggle 0)) (q .stepUp 5) = some (q .stepUp 5) := by
  decide

/-- R101, R102: a TOGGLE given to a slot that holds one and is at its third attempt, between attempts and within one. -/
theorem test_giveWitness :
    let q : LevelRequest := { op := .toggle, value := 0, dest := 7, mask := 1 }
    let l : LevelSlot := { ctl := { attempts := 3, held := true }, content := some q, followOn := none }
    l.give false q = { ctl := .clear, content := none, followOn := none } ∧ l.give true q = { l with followOn := some q } ∧
      l.give false { q with op := .stepDown } = { ctl := .clear, content := some { q with op := .stepDown }, followOn := none } ∧
      { l with content := some { q with op := .stepUp, value := 128 } }.give false { q with op := .stepUp, value := 5 } =
        { l with content := some { q with op := .stepUp, value := 128 } } := by
  decide

/-- A cursor of station 20 whose next index is 17, the own channel 1, and whose last is 17 or 18. -/
def cursorAt (last : Byte) : Cursor := { source := 20, first := 16, last := last, next := 17, valid := true, complete := false }

def withCursor (c : Cursor) : State :=
  { member 5 with engine := { (member 5).engine with replica := { exampleReplica with cursor := c } } }

theorem test_scenesWitness :
    after (exec .applySceneMore (withHead (withCursor (cursorAt 17)) (record 20 (.sceneMore [30, 90]))))
        (fun t => (t.chans.get 1).target == 30 && t.engine.replica.cursor.complete && (t.chans.get 2).target == 0) = true ∧
      after (exec .applySceneMore (withHead (withCursor (cursorAt 18)) (record 20 (.sceneMore [129]))))
        (fun t => (t.chans.get 1).target == 0 && t.engine.replica.cursor.next == 18 && !t.engine.replica.cursor.complete) = true ∧
      after (exec .applySceneMore (withHead (withCursor (cursorAt 17)) (record 21 (.sceneMore [30]))))
        (fun t => t.engine.replica.cursor == cursorAt 17 && (t.chans.get 1).target == 0) = true ∧
      after (exec .applyScene (withHead (member 5) (record 20 (.scene 16 119 [0, 112]))))
        (fun t => (t.chans.get 0).target == 0 && (t.chans.get 1).target == 112 && t.engine.replica.cursor.next == 18) = true ∧
      after (exec .applyScene (withHead (member 5) (record 20 (.scene 16 120 [0]))))
        (fun t => !t.engine.replica.cursor.valid && (t.chans.get 0).target == 60) = true := by
  decide +kernel

/-! ## Outputs, sense monitors and keys -/

/-- 8.6: the output of the example, in RUN at a slot, with its low count. -/
def lit (slot low : Nat) : State :=
  let s := member slot
  { s with
    chans := s.chans.set 2 { units := 12, cls := 0, defaultLevel := 0, target := 40, lastLit := 40, state := .lit, owed := false, revised := false }
    out :=
      { s.out with
        chan :=
          s.out.chan.set 2
            { polarity := .activeLow, drive := .pushPull, senseEnable := true, plan := some { start := 8, len := 40 }
              lowCount := low, faultHold := false } } }

theorem test_outputPinsWitness :
    (lit 7 0).outPin 2 = .high ∧ (lit 8 0).outPin 2 = .low ∧ (lit 47 0).outPin 2 = .low ∧ (lit 48 0).outPin 2 = .high ∧
      State.reset.outPin 2 = .released ∧ (lit 8 0).faultN = false ∧ (node .halted 0).faultN = true := by
  decide +kernel

theorem test_senseWitness :
    after (exec (.senseSample 2 false) (lit 28 2)) (fun t => (t.out.chan.get 2).lowCount == 3 && !t.faultN) = true ∧
      after (exec (.senseSample 2 true) (lit 28 3)) (fun t => (t.out.chan.get 2).lowCount == 0 && !t.faultN) = true ∧
      after (exec (.senseSample 2 false) (lit 28 3))
        (fun t => (t.chans.get 2).state == .faulted && t.faultN && t.outPin 2 == .high) = true ∧
      after (exec (.senseSample 2 false) (lit 27 3)) (· == lit 27 3) = true := by
  decide +kernel

/-- R162, R172: KEY1's pad in its discharge and after it, another key's, and in HALTED. -/
theorem test_keyPins :
    let s := { member 5 with touch := { (member 5).touch with scan := some 1 } }
    s.keyPin 1 15 = .low ∧ s.keyPin 1 16 = .released ∧ s.keyPin 2 0 = .released ∧
      (s.halt .duplicate).keyPin 1 0 = .released ∧ State.reset.keyPin 1 0 = .released := by
  decide +kernel

/-- R175: the first and last oscillator cycles of the transaction, the bit 1 of 03h in CCK cycle 6, and the pins at rest. -/
theorem test_memoryPins :
    (reading.csnPin 0 = .low ∧ reading.csnPin 8575 = .low ∧ reading.csnPin 8576 = .high) ∧
      (reading.cckPin 7 = .low ∧ reading.cckPin 8 = .high ∧ reading.cckPin 15 = .high ∧ reading.cckPin 16 = .low ∧
        reading.cckPin 8575 = .high ∧ reading.cckPin 8584 = .low) ∧
      (reading.cmosiPin 95 = .low ∧ reading.cmosiPin 96 = .high ∧ reading.cmosiPin 127 = .high ∧ reading.cmosiPin 128 = .low ∧
        reading.cmosiPin 383 = .low) ∧
      ((member 5).csnPin 0 = .high ∧ (member 5).cckPin 8 = .low ∧ (member 5).cmosiPin 96 = .low) ∧
      State.reset.csnPin 0 = .released ∧ State.reset.cckPin 8 = .released ∧ State.reset.cmosiPin 96 = .released := by
  decide +kernel

/-- R39, 3.2: the DUMP-OPEN that begins 07h puts 0, 0000 0111, 1 on DLN; 2 µs a bit time at rate code 2. After the last stop bit,
and of a station that sends nothing, DLN is released. -/
theorem test_dlnPin :
    let m := { message 5 0 (.dumpOpen dumpOpen) true with priority := 0 }
    let s := sending (member 5) .dump m
    m.chars.head? = some 7 ∧
      (∀ bit < 10, s.dlnBit bit = if bit < 6 then .low else .released) ∧
      (s.dlnBit 10 = .low ∧ s.dlnBit 149 = .released ∧ s.dlnBit 150 = .released) ∧
      (s.dlnPin 11 = .low ∧ s.dlnPin 12 = .released ∧ s.dlnPin 19 = .released ∧ s.dlnPin 20 = .low) ∧
      (member 5).dlnBit 0 = .released := by
  decide +kernel

/-- R50: the trailer slots of a FOUND in RUN, of a SHED, of a SHED that finds the queue full, and of a station that hears none. -/
theorem test_trailerPins :
    let f := heard (message 3 0 (.found 60 572))
    let m := heard (message 3 0 (.shed 63 1))
    let full := { member 5 with line := { (member 5).line with inbound := List.replicate 8 (record 3 (.shed 63 1)) } }
    ((member 5).errorSlotPin f = .low ∧ (member 5).holdSlotPin f = .released) ∧
      ((member 5).errorSlotPin m = .released ∧ (member 5).holdSlotPin m = .released) ∧
      (full.errorSlotPin m = .released ∧ full.holdSlotPin m = .low) ∧ (node .halted 5).errorSlotPin f = .released := by
  decide +kernel

/-- A round at key 1, with key 3 the next to be measured. -/
def scanning (k : Key) : State :=
  let s := withKey (withKey (member 5) 1 k) 3 (keyIn .released 0)
  { s with touch := { s.touch with scan := some 1 } }

theorem test_measurementWitness :
    let s := scanning { keyIn .pressed 7 with noTouchRun := 2 }
    let u := scanning { keyIn .pressed 7 with noTouchRun := 2, bound := 7 }
    (s.ctl.station.timerRuns = true ∧ s.touch.scan = some 1) ∧
      after (exec (.measurementEnd 1 202) s)
        (fun t => t.touch.scan == some 3 && (t.touch.key.get 1).state == .released && (t.chans.get 0).target == 0) = true ∧
      after (exec (.measurementEnd 1 202) u)
        (fun t => (t.chans.get 0).target == 60 && (t.line.slots.level.get 1).content.any (·.op == .toggle)) = true ∧
      after (exec (.measurementEnd 1 202) (sending u (.level 1) (message 5 7 (.level .toggle 1 0))))
        (fun t => (t.line.slots.level.get 1).content.isNone && (t.line.slots.level.get 1).followOn.any (·.op == .toggle)) = true ∧
      after (exec (.measurementEnd 1 215) s) (fun t => (t.touch.key.get 1).state == .pressed && t.chans == s.chans) = true ∧
      after (exec (.measurementEnd 2 202) s) (· == s) = true := by
  decide +kernel

/-- R163 to R169: a key at each bound of its readings and runs. -/
theorem test_keyWitness :
    ((keyIn .released 0).measure 221).1.touchRun = 1 ∧ ((keyIn .released 0).measure 220).1.touchRun = 0 ∧
      ((keyIn .released 0).measure 211).1.noTouchRun = 1 ∧ ((keyIn .released 0).measure 212).1.noTouchRun = 0 ∧
      ({ keyIn .released 0 with shortRun := 3 }.measure 15).1.state = .faultLow ∧
      ({ keyIn .released 0 with shortRun := 3 }.measure 16).1.shortRun = 0 ∧
      ({ keyIn .released 0 with tracking := 15 }.measure 202).1.baseline = 202 ∧
      ({ keyIn .released 0 with tracking := 14 }.measure 202).1.baseline = 201 ∧
      ({ keyIn .holding 20 with noTouchRun := 2 }.measure 202).1.ramp = .down ∧
      ({ keyIn .holding 20 with noTouchRun := 2 }.measure 202).2 = false ∧
      ({ keyIn .released 0 with touchRun := 2 }.measure 211).1.touchRun = 0 ∧
      ({ keyIn .released 0 with noTouchRun := 2 }.measure 211).1.noTouchRun = 0 ∧
      ({ keyIn .released 0 with touchRun := 2 }.measure 212).1.touchRun = 2 ∧
      ({ keyIn .released 0 with tracking := 15 }.measure 221).1.tracking = 0 ∧
      ({ keyIn .calibrating 0 with calCount := 7, calSum := 1400, tracking := 3 }.measure 200).1.tracking = 0 := by
  decide

/-! ## Invariants, halt and codec -/

theorem test_memberKeepsTheLaws :
    SlotMapLaw (member 5) ∧ MembershipLaw (member 5) ∧ ChannelLaw (member 5) ∧ QueueBounded (member 5) ∧
      PendingLaw (dueMember false) ∧ AttemptsBounded (member 5) ∧ FaultHeld (member 5) ∧ KeysInRange (member 5) ∧
      (UnusedUndriven (dueMember false) ∧ ((dueMember false).chans.get 3).state = .unused) := by
  have ctl : ∀ id, (TxSlots.empty.ctl id).attempts ≤ 15 := by
    intro id
    cases id with
    | level k => revert k; decide
    | _ => decide
  refine ⟨⟨fun _ => ?_, fun b hb => (by cases hb), fun h => (by cases h)⟩,
    ⟨fun _ => ?_, fun b hb => (by cases hb), fun r hr => (by cases hr), fun _ => by decide +kernel, fun h => (by cases h)⟩,
    ?_, ?_, ?_, ⟨ctl, by decide⟩, ?_, ?_, ?_⟩
  · unfold MapLaw MapAgrees MapWithin
    decide +kernel
  · unfold RosterLaw ClaimsLaw
    decide +kernel
  · unfold ChannelLaw
    decide +kernel
  · unfold QueueBounded
    decide +kernel
  · unfold PendingLaw
    decide +kernel
  · unfold FaultHeld
    decide +kernel
  · unfold KeysInRange KeyLaw
    decide +kernel
  · unfold UnusedUndriven
    decide +kernel

/-- The laws of RUN and of attempts hold of a member with an attempt under way. -/
theorem test_memberKeepsTheRunLaw :
    RunLaw (member 5) ∧ AttemptLaw (sending (member 5) .place (message 5 0 (.shed 63 1))) ∧ AttemptLaw (node .halted 5) := by
  refine ⟨fun _ => ⟨by decide +kernel, by decide +kernel, by decide +kernel, fun st => ?_⟩, ⟨fun h => (by cases h), fun _ => rfl⟩,
    ⟨fun _ => rfl, fun h => (by cases h)⟩⟩
  simp [member, exampleReplica, isMember, State.own, node]
  omega

theorem test_emptyOutsideRunWitness : EmptyOutsideRun (member 5) ∧ EmptyOutsideRun (node .joinWait 5) := by
  have rest : ∀ s : State, s.engine.build = none → s.line.slots.joinFoundHolds = none → s.line.attempt = none →
      BuildPlaced s ∧ FoundPlaced s ∧ PresencePlaced s := by
    intro s hb hf ha
    refine ⟨fun h => ?_, fun h => ?_, fun a h => ?_⟩
    · rw [hb] at h
      cases h
    · rw [hf] at h
      cases h
    · rw [ha] at h
      cases h
  exact ⟨⟨fun h => absurd rfl h, fun _ => rfl, rest _ rfl rfl rfl⟩,
    ⟨fun _ => (by decide +kernel), fun h => absurd rfl h, rest _ rfl rfl rfl⟩⟩

/-- A state that keeps the laws has next steps: the invariants speak of something. -/
theorem test_memberSteps :
    let s := withHead (member 5) (record 20 (.shed 63 2))
    after (step { s with pending := [.applyShed] }) (fun t => t.engine.replica.shed == 2) = true ∧
      after (step { member 127 with pending := [.periodEndOfCount] }) (fun t => t.timer.period == 61) = true := by
  decide +kernel

theorem test_haltedFrozenWitness :
    let s := node .halted 5
    (s.ctl.station = .halted ∧ s.line.attempt = none) ∧
      after (exec (.messageAccepted (heard (message 3 0 (.shed 63 1)))) s) (· == s) = true ∧
      after (exec .periodEndOfCount { s with timer := { s.timer with slot := 127 } })
        (· == { s with timer := { s.timer with slot := 127 } }) = true := by
  decide +kernel

theorem test_configurationHeldWitness :
    after (exec .periodEndOfCount (member 127)) (fun t => t.cfg == lineParams && t.loader.digest == 572) = true := by
  decide +kernel

/-- One message of each kind has no form error, at the longest its kind carries. -/
theorem test_messagesWitness :
    ∀ m ∈
      [ message 1 0 (.join 63 572), message 30 0 (.found 60 572), message 3 0 (.dumpOpen dumpOpen) true
      , message 3 0 (.dumpPart (.roster (List.replicate 8 { station := 3, incarnation := 255 }))) true
      , message 3 0 (.dumpPart (.cursor (cursorAt 18))), message 3 0 (.dumpPart (.claims 30 (List.replicate 4
          { channel := 3, cls := 2, units := 63, start := 127, len := 1 })))
      , message 3 0 (.evict 63 (List.replicate 8 { station := 30, incarnation := 0 }))
      , message 3 0 (.place 63 (List.replicate 4 { channel := 0, cls := 0, units := 1, start := 0, len := 128 }))
      , message 3 0 (.shed 63 3), message 3 0 (.presence 60 65535 65535 255), message 3 30 (.level .stepUp 15 128)
      , message 3 0 (.scene 0 119 (List.replicate 16 255)), message 3 0 (.sceneMore (List.replicate 16 0))
      , message 3 0 (.query .channels), message 3 7 (.report .node (List.replicate 15 1))
      , message 3 7 (.report .channels (List.replicate 16 1)) ],
      m.formOk = true ∧ readMessage m.chars = some m := by
  decide +kernel

/-- Characters with the check that fits them. -/
def checked (body : List Byte) : List Byte := body ++ [hiByte (weightedSum body), loByte (weightedSum body)]

/-- R47, R184 to R186: what is unreadable. The SHED of level 1, then with another check, a dominant stop bit, source 0 and 31,
destination 3, kind 0 and 14, a length that is not the kind's, level 4, LEVEL's operation 4 and value 129, a STEP-UP of 0, a PLACE of
class 3, of 64 units and with an upper bit set, its release of class 3, part type 0, part type 9, an empty EVICT. -/
theorem test_unreadable :
    let shed := heard (message 3 0 (.shed 63 1))
    let place := fun a units len : Byte => readMessage (checked [0x4C, 3, 0, 5, 63, a, units, 8, len])
    shed.message = some (message 3 0 (.shed 63 1)) ∧
      (readMessage (shed.values.set 6 0) = none ∧ readMessage (shed.values.set 7 0) = none) ∧
      (∀ i < 8, { shed with chars := shed.chars.modify i fun c => { c with stopRecessive := false } }.message = none) ∧
      readMessage (checked [0x4E, 3, 0, 2, 63, 1]) = some (message 3 0 (.shed 63 1)) ∧
      (∀ body ∈
        ([ [0x4E, 0, 0, 2, 63, 1], [0x4E, 31, 0, 2, 63, 1], [0x4E, 3, 3, 2, 63, 1], [0x40, 3, 0, 2, 63, 1], [0x5C, 3, 0, 2, 63, 1]
          , [0x4E, 3, 0, 1, 63], [0x4E, 3, 0, 3, 63, 1, 0], [0x4E, 3, 0, 2, 63, 4], [0x52, 3, 0, 2, 0x40, 1], [0x52, 3, 0, 2, 0, 129]
          , [0x52, 3, 0, 2, 0x20, 0], [0x48, 3, 0, 2, 0, 5], [0x48, 3, 0, 3, 9, 5, 0], [0x4A, 3, 0, 1, 63] ] : List (List Byte)),
        readMessage (checked body) = none) ∧
      ((place 2 12 40).isSome = true ∧ place 3 12 40 = none ∧ place 2 64 40 = none ∧ place 2 0 40 = none ∧ place 16 12 40 = none ∧
        (place 3 64 0).isSome = true) := by
  decide +kernel

end Sys2Proof.Tests
end

/-! The state check as R14 states it: the sum of the terms over list positions, and its values at an empty replica and at
founding. -/

namespace Sys2Proof.Machine

/-- The terms from position `n` on are one term for each list position, `n` places further along (R14). -/
theorem claimTerms_eq_sum_range (n : Nat) (cs : List Claim) :
    claimTerms n cs = ((List.range cs.length).map fun i => cs[i]?.elim 0 (claimTerm (n + i))).sum := by
  induction cs generalizing n with
  | nil => rfl
  | cons c cs ih =>
    have shift : ∀ i, n + 1 + i = n + (i + 1) := by omega
    simp [claimTerms, ih, shift, List.range_succ_eq_map, Function.comp_def]

/-- R14's sum over a list and its positions, held in 16 bits. -/
theorem toNat_stateCheck (r : Replica) :
    (stateCheck r).toNat =
      (claimTerms 0 r.claims + (r.roster.map memberTerm).sum + r.shed.val * 4096) % 65536 :=
  BitVec.toNat_ofNat _ _

/-- A replica with nothing in its Claim List and its Roster, at shed level 0, has state check 0 (R14). -/
theorem stateCheck_empty : stateCheck Replica.empty = 0 := rfl

/-- R14, R81: at founding the check is the founder's one Roster term, at incarnation 0. -/
theorem toNat_stateCheck_founding (own : Nat) :
    (stateCheck (Replica.founding own)).toNat = (own * 256 + 7) % 65536 := by
  have claims : (Replica.founding own).claims = [] := rfl
  have roster : (Replica.founding own).roster = [{ station := own, incarnation := 0 }] := rfl
  have shed : (Replica.founding own).shed.val = 0 := rfl
  simp [toNat_stateCheck, claims, roster, shed, claimTerms, memberTerm]

/-- Settles O44: the sum over positions by induction on the Claim List, the rest by the values of the replicas named. -/
theorem stateCheckFormula : Obligations.StateCheckFormula := by
  refine ⟨fun r => ?_, stateCheck_empty, toNat_stateCheck_founding, stateCheck_congr⟩
  rw [toNat_stateCheck, claimTerms_eq_sum_range]
  congr 5
  funext i
  cases r.claims[i]? with
  | none => rfl
  | some c => simp [claimTerm]

end Sys2Proof.Machine

/-! One entry of a PLACE: R66's reasons in their order, and what each verdict does to the replica. -/

namespace Sys2Proof.Machine

section PlaceEntry

variable {guard budget source : Nat} {r : Replica} {p : PlaceEntry}

/-- R66 OVER, slot by slot: the units of the channel's own entry are those its entry alone claims. -/
theorem wouldExceed_eq_any (m : List Nat) (start len units : Nat) (current : Option Claim) :
    wouldExceed m budget start len units current =
      (List.range len).any fun i =>
        decide (budget < occupancy m (start + i) - claimedAt current.toList (start + i) + units) := by
  cases current with
  | none => rfl
  | some c => simp [wouldExceed, claimedAt_cons]

theorem wouldExceed_iff {m : List Nat} {start len units : Nat} {current : Option Claim} :
    wouldExceed m budget start len units current = true ↔
      ∃ k, start ≤ k ∧ k < start + len ∧ budget < occupancy m k - claimedAt current.toList k + units := by
  simp only [wouldExceed_eq_any, List.any_eq_true, List.mem_range, decide_eq_true_eq]
  constructor
  · rintro ⟨i, hi, exceeds⟩
    exact ⟨start + i, by omega, by omega, exceeds⟩
  · rintro ⟨k, hlo, hhi, exceeds⟩
    refine ⟨k - start, by omega, ?_⟩
    rwa [Nat.add_sub_cancel' hlo]

/-! R66: the reasons in order, each reached when the ones before it do not hold. -/

theorem judgePlacing_notMember (hm : isMember r.roster source = false) :
    judgePlacing guard budget r source p = some .notMember := by
  simp [judgePlacing, hm]

theorem judgePlacing_length (hm : isMember r.roster source = true) (long : Config.slots - 2 * guard < p.len.toNat) :
    judgePlacing guard budget r source p = some .length := by
  simp [judgePlacing, hm, long]

theorem judgePlacing_area (hm : isMember r.roster source = true) (short : p.len.toNat ≤ Config.slots - 2 * guard)
    (outside : p.start.toNat < guard ∨ Config.slots - guard < p.start.toNat + p.len.toNat) :
    judgePlacing guard budget r source p = some .area := by
  simp [judgePlacing, hm, Nat.not_lt.mpr short, outside]

/-- A member's entry of a fitting length inside the usable slots is judged by OVER alone. -/
theorem judgePlacing_inside (hm : isMember r.roster source = true) (lo : guard ≤ p.start.toNat)
    (short : p.len.toNat ≤ Config.slots - 2 * guard) (hi : p.start.toNat + p.len.toNat ≤ Config.slots - guard) :
    judgePlacing guard budget r source p =
      if wouldExceed r.slotMap budget p.start.toNat p.len.toNat p.units.toNat (claimOf r.claims source p.channel) then
        some .over
      else none := by
  have inside : ¬ (p.start.toNat < guard ∨ Config.slots - guard < p.start.toNat + p.len.toNat) := by omega
  simp only [judgePlacing, hm, Bool.not_true, Bool.false_eq_true, if_false, if_neg (Nat.not_lt.mpr short), if_neg inside]

/-! R65 to R68: what each verdict on an entry does. -/

theorem placeEntry_of_rejection {why : Rejection} (hp : p.len ≠ 0)
    (judged : judgePlacing guard budget r source p = some why) :
    placeEntry guard budget source r p = (r, .rejected why) := by
  rw [placeEntry, if_neg hp, judged]

theorem placeEntry_of_no_rejection (hp : p.len ≠ 0) (judged : judgePlacing guard budget r source p = none) :
    placeEntry guard budget source r p =
      ((r.removeWhere (Claim.isFor source p.channel)).append (p.claim source),
        .placed { start := p.start.toNat, len := p.len.toNat }) := by
  rw [placeEntry, if_neg hp, judged]

/-- Placing or releasing, an entry from a station outside the Roster is rejected. -/
theorem placeEntry_of_not_member (hm : isMember r.roster source = false) :
    placeEntry guard budget source r p = (r, .rejected .notMember) := by
  by_cases hp : p.len = 0
  · simp [placeEntry, hp, hm]
  · exact placeEntry_of_rejection hp (judgePlacing_notMember hm)

theorem placeEntry_release_held {c : Claim} (hp : p.len = 0) (hm : isMember r.roster source = true)
    (held : claimOf r.claims source p.channel = some c) :
    placeEntry guard budget source r p = (r.removeWhere (Claim.isFor source p.channel), .released) := by
  simp [placeEntry, hp, hm, held]

theorem placeEntry_release_absent (hp : p.len = 0) (hm : isMember r.roster source = true)
    (absent : claimOf r.claims source p.channel = none) :
    placeEntry guard budget source r p = (r, .noChange) := by
  simp [placeEntry, hp, hm, absent]

end PlaceEntry

/-- Settles O29: R66's reasons one by one, then what a placed entry (R67) and a release (R68) leave. -/
theorem placeEntryApplied : Obligations.PlaceEntryApplied := by
  intro guard budget source r p agrees x others own crowded
  have own_eq : ∀ k, own k = claimedAt (claimOf r.claims source p.channel).toList k := by
    intro k
    simp only [own]
    cases claimOf r.claims source p.channel with
    | none => rfl
    | some c => simp [claimedAt_cons, Claim.covers_iff]
  have crowded_iff : wouldExceed r.slotMap budget p.start.toNat p.len.toNat p.units.toNat
      (claimOf r.claims source p.channel) = true ↔ crowded := by
    simp only [wouldExceed_iff, crowded, own_eq]
  obtain ⟨mapFollows, unchanged⟩ := placeEntry_spec guard budget source r p
  refine ⟨mapFollows agrees, unchanged, placeEntry_of_not_member, ?length, ?area, ?crowded, ?placed, ?released, ?noChange⟩
  case length => exact fun hp hm long => placeEntry_of_rejection hp (judgePlacing_length hm long)
  case area => exact fun hp hm short outside => placeEntry_of_rejection hp (judgePlacing_area hm short outside)
  case crowded =>
    intro hp hm lo short hi full
    refine placeEntry_of_rejection hp ?_
    rw [judgePlacing_inside hm lo short hi, if_pos (crowded_iff.mpr full)]
  case placed =>
    intro hp hm lo short hi free
    have judged : judgePlacing guard budget r source p = none := by
      rw [judgePlacing_inside hm lo short hi, if_neg (mt crowded_iff.mp free)]
    simp [x, others, placeEntry_of_no_rejection hp judged, PlaceEntry.claim]
  case released =>
    intro hp hm held
    obtain ⟨c, held⟩ := Option.ne_none_iff_exists'.mp held
    simp [x, others, placeEntry_release_held hp hm held]
  case noChange => exact placeEntry_release_absent

end Sys2Proof.Machine

/-! One PRESENCE (R79, R123, R124): what is judged, what a mismatch leaves of the tally, and the four outcomes of an
application. -/

namespace Sys2Proof.Machine

section Presence

variable {s : State} {r : Record} {p : Byte} {n c : Word16}

/-! R123, R124: the tests of an application, in the words of the rules. -/

theorem judges_iff :
    s.judges r = true ↔
      isMember s.engine.replica.roster r.source = true ∧ r.source ≠ s.own ∧ r.boundary = false := by
  simp [State.judges, and_assoc]

theorem presenceMatches_iff {stamp : Byte} :
    s.presenceMatches stamp p n c = true ↔
      p = stamp ∧ n = s.engine.replica.stateCount ∧ c = s.engine.heldCheck := by
  simp [State.presenceMatches, and_assoc]

/-- R124: a mismatch leaves everything of the engine but the tally. -/
theorem mismatch_eq (e : Engine) (source : Nat) :
    e.mismatch source =
      { e with
        witnesses := if source ∈ e.witnesses then e.witnesses else e.witnesses ++ [source]
        mismatches := satInc e.mismatches } := by
  simp [Engine.mismatch]

/-- R124, of a source in the Roster: in a Roster of two that holds the own station, the other entry is the source's. -/
theorem diverged_iff {e : Engine} {own source : Nat} (member : isMember e.replica.roster source = true) :
    e.diverged own source = true ↔
      2 ≤ e.witnesses.length ∨
        (e.replica.roster.length = 2 ∧ isMember e.replica.roster own = true ∧ 3 ≤ e.mismatches.toNat ∧ source < own) := by
  simp [Engine.diverged, member, and_assoc]

/-- R126: the restart empties the tally, so the mismatch that brings it about leaves no mark on it. -/
theorem warmRestart_of_mismatch (s : State) (source : Nat) :
    { s with engine := s.engine.mismatch source }.warmRestart = s.warmRestart := rfl

/-! R124: the outcomes of a PRESENCE record. -/

theorem applyPresenceRecord_not_judged (passed : s.judges r ≠ true) : s.applyPresenceRecord r p n c = s := by
  simp [State.applyPresenceRecord, passed]

theorem applyPresenceRecord_match (judged : s.judges r = true) (agrees : s.presenceMatches r.stamp p n c = true) :
    s.applyPresenceRecord r p n c = { s with engine := { s.engine with witnesses := [], mismatches := 0 } } := by
  simp [State.applyPresenceRecord, judged, agrees]

theorem applyPresenceRecord_mismatch (judged : s.judges r = true)
    (differs : s.presenceMatches r.stamp p n c ≠ true) :
    s.applyPresenceRecord r p n c =
      if (s.engine.mismatch r.source).diverged s.own r.source then s.warmRestart
      else { s with engine := s.engine.mismatch r.source } := by
  simp [State.applyPresenceRecord, judged, differs, warmRestart_of_mismatch]

/-- R61, R79: in RUN the command applies the PRESENCE at the head and removes it. -/
theorem exec_applyPresence {rest : List Record} {i : Byte} (head : AtHead s r rest) (run : s.ctl.station = .run)
    (presence : r.payload = .presence p n c i) :
    exec .applyPresence s = .next (s.applyPresenceRecord r p n c).dropHead := by
  have taken : s.useHead = some r :=
    useHead_of_atHead head (by rw [run]; rfl) (by rw [presence, run]; rfl)
  change execApplyPresence s = _
  simp only [execApplyPresence, taken, presence]

/-- The head removed from a state that differs from `s` in its engine alone. -/
theorem dropHead_popped_of_engine {rest : List Record} (queue : s.line.inbound = r :: rest) (e : Engine) :
    { s with engine := e }.dropHead = { s with engine := e, line := s.line.popped rest } :=
  dropHead_popped (s := { s with engine := e }) queue

end Presence

/-- Settles O39: the four outcomes of a PRESENCE, each by R124's tests at the tally that the mismatch leaves. -/
theorem presenceJudged : Obligations.PresenceJudged := by
  intro s r rest p n c i head run presence judged agrees w diverged
  have judged_iff : s.judges r = true ↔ judged := judges_iff
  have agrees_iff : s.presenceMatches r.stamp p n c = true ↔ agrees := presenceMatches_iff
  have restarts_iff (hj : judged) : (s.engine.mismatch r.source).diverged s.own r.source = true ↔ diverged := by
    obtain ⟨member, -⟩ := hj
    rw [mismatch_eq]
    exact diverged_iff member
  rw [exec_applyPresence head run presence]
  obtain ⟨queue, -⟩ := head
  refine ⟨?passedOver, ?matching, ?mismatching, ?restarting⟩
  case passedOver =>
    intro hj
    rw [applyPresenceRecord_not_judged (mt judged_iff.mp hj), dropHead_popped queue]
  case matching =>
    intro hj ha
    rw [applyPresenceRecord_match (judged_iff.mpr hj) (agrees_iff.mpr ha), dropHead_popped_of_engine queue]
  case mismatching =>
    intro hj ha hd
    rw [applyPresenceRecord_mismatch (judged_iff.mpr hj) (mt agrees_iff.mp ha), if_neg (mt (restarts_iff hj).mp hd),
      dropHead_popped_of_engine queue, mismatch_eq]
  case restarting =>
    intro hj ha hd
    rw [applyPresenceRecord_mismatch (judged_iff.mpr hj) (mt agrees_iff.mp ha), if_pos ((restarts_iff hj).mpr hd)]

end Sys2Proof.Machine

/-! One SCENE-MORE (R139): which cursors it continues, and the application in RUN. -/

namespace Sys2Proof.Machine

section SceneMore

variable {own a source : Nat} {ls : List Byte} {cur : Cursor} {cs : Four Channel}

/-- R139, rows 1 to 3: the cursor is not one that the source may continue. -/
theorem sceneContinue_ignored (h : cur.valid = false ∨ cur.complete = true ∨ cur.source.toNat ≠ source) :
    sceneContinue own a source ls cur cs = (cur, cs) := by
  rcases h with invalid | complete | other
  · simp [sceneContinue, invalid]
  · simp [sceneContinue, complete]
  · simp [sceneContinue, other]

/-- R139, row 4: the source that began the scene continues it. -/
theorem sceneContinue_own_source (valid : cur.valid = true) (incomplete : cur.complete = false)
    (own_source : cur.source.toNat = source) :
    sceneContinue own a source ls cur cs = assignLevels own a ls cur cs := by
  simp [sceneContinue, valid, incomplete, own_source]

/-- The scene of a state set to what it is. -/
theorem setScene_self (s : State) : s.setScene (s.engine.replica.cursor, s.chans) = s := rfl

/-- R61, R139: in RUN the command continues the cursor with the SCENE-MORE at the head and removes it. -/
theorem exec_applySceneMore {s : State} {r : Record} {rest : List Record} (head : AtHead s r rest)
    (run : s.ctl.station = .run) (sceneMore : r.payload = .sceneMore ls) :
    exec .applySceneMore s =
      .next (s.setScene (sceneContinue s.own s.cfg.placeable r.source ls s.engine.replica.cursor s.chans)).dropHead := by
  have taken : s.useHead = some r :=
    useHead_of_atHead head (by rw [run]; rfl) (by rw [sceneMore, run]; rfl)
  obtain ⟨source, lock, stamp, boundary, payload⟩ := r
  subst sceneMore
  change execApplySceneMore s = _
  simp only [execApplySceneMore, taken]

/-- The head removed once the scene has been set. -/
theorem dropHead_setScene {s : State} {r : Record} {rest : List Record} (queue : s.line.inbound = r :: rest)
    (x : Cursor × Four Channel) : (s.setScene x).dropHead = { s.setScene x with line := s.line.popped rest } :=
  dropHead_popped (s := s.setScene x) queue

end SceneMore

/-- Settles O42: R139's table by whether the cursor is one that the source continues. -/
theorem sceneMoreApplied : Obligations.SceneMoreApplied := by
  intro s r rest ls head run sceneMore cur
  rw [exec_applySceneMore head run sceneMore]
  obtain ⟨queue, -⟩ := head
  refine ⟨?ignored, ?continued⟩
  case ignored =>
    intro ignored
    rw [sceneContinue_ignored ignored, setScene_self, dropHead_popped queue]
  case continued =>
    intro valid incomplete own_source
    rw [sceneContinue_own_source valid incomplete own_source, dropHead_setScene queue]
    rfl

end Sys2Proof.Machine

/-! FAULTN (R180): each of its grounds, one channel or one key at a time. -/

namespace Sys2Proof.Machine

/-- R163: the two key states that hold a pad fault. -/
theorem isFault_iff (k : KeyState) : k.isFault = true ↔ k = .faultOverflow ∨ k = .faultLow := by
  cases k <;> simp [KeyState.isFault]

theorem any_faulted_iff (cs : Four Channel) :
    cs.any (fun c => c.state == .faulted) = true ↔ ∃ n, (cs.get n).state = .faulted := by
  simp only [Four.any_iff, beq_iff_eq]

theorem any_padFault_iff (ks : Four Key) :
    ks.any (fun k => k.state.isFault) = true ↔
      ∃ k, (ks.get k).state = .faultOverflow ∨ (ks.get k).state = .faultLow := by
  simp only [Four.any_iff, isFault_iff]

/-- Settles O47: FAULTN is the disjunction of its three grounds, each read through `Four.any_iff`. -/
theorem faultnAsserted : Obligations.FaultnAsserted := by
  intro s
  rw [State.faultN, Bool.or_eq_true, Bool.or_eq_true, beq_iff_eq, any_faulted_iff, any_padFault_iff, or_assoc]

end Sys2Proof.Machine

/-! What one command can do, said once: the effects of `exec`, each with the conditions under which it comes about. The invariants
below are proved effect by effect. -/

namespace Sys2Proof.Machine

/-! ## The effects of a command -/

/-- What the engine makes of the record `r` at the head of the queue, before its removal (R61 to R63). -/
inductive Applied (s : State) (r : Record) : State → Prop
  | far {e : Byte} (stamp : r.payload.e = some e) (far : stampCase s.timer.period e = .far) : Applied s r s.warmRestart
  | place {e : Byte} {es : List PlaceEntry} (kind : r.payload = .place e es)
      (near : stampCase s.timer.period e ≠ .far) : Applied s r (s.applyPlaceRecord r.source e es)
  | join {e : Byte} {d : Word16} (kind : r.payload = .join e d) (near : stampCase s.timer.period e ≠ .far) :
      Applied s r (s.applyJoinRecord r.source e d)
  | evict {e : Byte} {ps : List Pair} (kind : r.payload = .evict e ps) (near : stampCase s.timer.period e ≠ .far) :
      Applied s r (s.applyEvictRecord e ps)
  | shed {e : Byte} {l : Num4} (kind : r.payload = .shed e l) (near : stampCase s.timer.period e ≠ .far) :
      Applied s r (s.applyShedRecord e l)
  | dumpOpen {f : DumpOpen} (kind : r.payload = .dumpOpen f) : Applied s r (s.applyDumpOpenRecord r.source)
  | dumpPart {p : DumpPart} (kind : r.payload = .dumpPart p) : Applied s r (s.applyDumpPartRecord r.source r.lock p)
  | presence {p : Byte} {n c : Word16} {i : Byte} (kind : r.payload = .presence p n c i) :
      Applied s r (s.applyPresenceRecord r p n c)
  | level {op : LevelOp} {m : BitVec 4} {v : Byte} (kind : r.payload = .level op m v) :
      Applied s r (s.applyLevelRecord op m v)
  | scene {f l : Byte} {ls : List Byte} (kind : r.payload = .scene f l ls) :
      Applied s r (s.setScene (sceneStart s.own s.cfg.placeable r.source f l ls s.chans))
  | sceneMore {ls : List Byte} (kind : r.payload = .sceneMore ls) :
      Applied s r (s.setScene (sceneContinue s.own s.cfg.placeable r.source ls s.engine.replica.cursor s.chans))
  | query {w : What} (kind : r.payload = .query w) : Applied s r (s.applyQueryRecord r.source w)

/-- R40, R60: the line interface at rest, with the run `owner`. -/
def State.lineAtRest (s : State) (owner : Option Nat) : State :=
  { s with line := { s.line with idle := true, heard := true, runOwner := owner } }

/-- R162: the touch key unit after the measurement of `key` came to `v`. -/
def State.measured (s : State) (key : Num4) (v : Nat) : State :=
  let t := { s.touch with key := s.touch.key.set key ((s.touch.key.get key).measure v).1 }
  { s with touch := { t with scan := t.nextKey (keysAfter key) } }

/-- What one command can make of a state; a cold reset and the end of LOADING come of their own commands alone. -/
inductive Effect (c : Instr) (s : State) : State → Prop
  | stands : Effect c s s
  | coldReset (n : Nat) (cause : HaltCause) (reset : ∃ x, c = .coldReset x) :
      Effect c s ({ s with freeIndex := n }.coldReset cause)
  | pulseIgnored (reset : ∃ x, c = .coldReset x) : Effect c s { s with freeIndex := s.freeIndex + 1 }
  | strapsTaken {n : Nat} (loading : s.ctl.station = .loading) (waiting : s.loader.phase = .waiting) (lo : 1 ≤ n)
      (hi : n ≤ 30) :
      Effect c s
        { s with freeIndex := s.freeIndex + 1, loader := { s.loader with strap := n, phase := .reading, pins := .transaction } }
  | strapsRefused {n : Nat} (loading : s.ctl.station = .loading) :
      Effect c s ({ s with loader := { s.loader with strap := n } }.halt .strap)
  | configured {image : List Byte} (read : ∃ memory, c = .configurationReadComplete memory)
      (loading : s.ctl.station = .loading) (reading : s.loader.phase = .reading)
      (valid : imageValid image = true) : Effect c s (s.configure image)
  | imageRefused (loading : s.ctl.station = .loading) :
      Effect c s ({ s with loader := { s.loader with pins := .atRest } }.halt .config)
  | periodStart (pull : Bool) (runs : s.ctl.station.timerRuns = true) : Effect c s (s.periodStart pull)
  | slotBoundary (runs : s.ctl.station.timerRuns = true) :
      Effect c s { s with timer := { s.timer with slot := s.timer.slot + 1, slnPull := false } }
  | lineIdle (listening : s.ctl.station.listening = true) : Effect c s (s.lineAtRest s.line.runOwner)
  | runClosed (listening : s.ctl.station.listening = true) : Effect c s (s.lineAtRest none)
  | runClosedFails (receiving : s.ctl.station = .dumpReceive) : Effect c s (s.lineAtRest none).failDump
  | attemptStart (opportunity : s.opportunity = true) :
      Effect c s (State.tryBuilds allSlots.length (allSlots.filter s.ready) s).settleSlots
  | attemptLost : Effect c s s.attemptLost
  | attemptDuplicate (sending : s.line.attempt.isSome = true) : Effect c s (s.halt .duplicate)
  | brokenOff : Effect c s (s.attemptFailed false)
  | toNobody (received : s.ctl.station.listening = true) : Effect c s { s with line := { s.line with idle := false } }
  | accepted {m : Reception} {msg : Message} (accepts : Accepts s m msg) :
      Effect c s (s.accept (s.queues m msg) m.boundary msg)
  | failed {m : Reception} (others : Bool) (received : s.receives m = true) : Effect c s (s.failMessage m others)
  | applied {r : Record} {t : State} (head : s.useHead = some r) (record : Applied s r t) : Effect c s t.dropHead
  | discarded {r : Record} (head : s.engineHead = some r) : Effect c s s.dropHead
  | measured (key : Num4) (v : BitVec 12) (runs : s.ctl.station.timerRuns = true) (under : s.touch.scan = some key) :
      Effect c s (s.measured key v.toNat)
  | measuredToggle (key : Num4) (v : BitVec 12) (runs : s.ctl.station.timerRuns = true) (under : s.touch.scan = some key) :
      Effect c s ((s.measured key v.toNat).keyOperation key .toggle 0)
  | sampled (n : Num4) (high : Bool) (driven : s.samples n = true) : Effect c s (s.sample n high)

/-! ## Each command has one of the effects -/

section Effects

variable {c : Instr}

theorem next_inj {s t : State} (h : (Host.Outcome.next s : Host.Outcome State Fault Refusal) = .next t) : t = s :=
  (Host.Outcome.next.inj h).symm

/-- A station that receives a message listens. -/
theorem receives_listening {s : State} {m : Reception} (h : s.receives m = true) : s.ctl.station.listening = true := by
  simp only [State.receives, Bool.and_eq_true] at h
  exact h.1.1.1

theorem effect_coldReset {cause : ResetCause} {s t : State} (h : execColdReset cause s = .next t) :
    Effect (.coldReset cause) s t := by
  cases cause with
  | powerOn => exact next_inj h ▸ .coldReset s.freeIndex _ ⟨_, rfl⟩
  | resetn => exact next_inj h ▸ .coldReset s.freeIndex _ ⟨_, rfl⟩
  | shortPulse =>
    simp only [execColdReset] at h
    split at h
    · exact next_inj h ▸ .coldReset _ _ ⟨_, rfl⟩
    · exact next_inj h ▸ .pulseIgnored ⟨_, rfl⟩

theorem effect_loaderStart {straps : BitVec 5} {s t : State} (h : execConfigurationLoaderStart straps s = .next t) :
    Effect c s t := by
  unfold execConfigurationLoaderStart at h
  split at h
  case isFalse => exact next_inj h ▸ .stands
  case isTrue waits =>
    simp only [State.loaderWaits, Bool.and_eq_true, beq_iff_eq] at waits
    dsimp only at h
    split at h
    case isTrue ok =>
      simp only [strapOk, Bool.and_eq_true, decide_eq_true_eq] at ok
      exact next_inj h ▸ .strapsTaken waits.1 waits.2 ok.1 ok.2
    case isFalse => exact next_inj h ▸ .strapsRefused waits.1

theorem effect_readComplete {memory : List (Option Bool)} {s t : State}
    (h : execConfigurationReadComplete memory s = .next t) : Effect (.configurationReadComplete memory) s t := by
  unfold execConfigurationReadComplete at h
  split at h
  case isFalse => exact next_inj h ▸ .stands
  case isTrue reads =>
    simp only [State.loaderReads, Bool.and_eq_true, beq_iff_eq] at reads
    dsimp only at h
    split at h
    case isTrue valid => exact next_inj h ▸ .configured ⟨_, rfl⟩ reads.1 reads.2 valid
    case isFalse => exact next_inj h ▸ .imageRefused reads.1

/-- Every period start command: the period start, or nothing. -/
theorem effect_periodStartIf (s : State) (src : StartSource) (here : Bool) : Effect c s (s.periodStartIf src here) := by
  unfold State.periodStartIf
  split
  case isFalse => exact .stands
  case isTrue arises =>
    refine .periodStart _ ?_
    simp only [Bool.and_eq_true] at arises
    cases src <;> simp_all [State.startArises, State.countEnded, State.edgeTaken]

theorem effect_slotBoundary {s t : State} (h : execSlotBoundary s = .next t) : Effect c s t := by
  unfold execSlotBoundary at h
  split at h
  case isFalse => exact next_inj h ▸ .stands
  case isTrue runs =>
    simp only [Bool.and_eq_true] at runs
    exact next_inj h ▸ .slotBoundary runs.1

theorem effect_lineIdle {s t : State} (h : execLineIdle s = .next t) : Effect c s t := by
  unfold execLineIdle at h
  split at h
  case isFalse => exact next_inj h ▸ .stands
  case isTrue rest =>
    simp only [Bool.and_eq_true] at rest
    exact next_inj h ▸ .lineIdle rest.1

theorem effect_attemptStart {s t : State} (h : execAttemptStart s = .next t) : Effect c s t := by
  unfold execAttemptStart at h
  split at h
  case isFalse => exact next_inj h ▸ .stands
  case isTrue opportunity => exact next_inj h ▸ .attemptStart opportunity

theorem effect_arbitrationLoss {char bit : Nat} {s t : State} (h : execArbitrationLoss char bit s = .next t) :
    Effect c s t := by
  unfold execArbitrationLoss at h
  split at h
  · exact next_inj h ▸ .stands
  next a sending =>
    split at h
    case isFalse => exact next_inj h ▸ .stands
    case isTrue =>
      split at h
      · exact next_inj h ▸ .attemptDuplicate (by rw [sending]; rfl)
      · exact next_inj h ▸ .attemptLost

theorem effect_messageAccepted {m : Reception} {s t : State} (h : execMessageAccepted m s = .next t) : Effect c s t := by
  unfold execMessageAccepted at h
  split at h
  case isFalse => exact next_inj h ▸ .stands
  case isTrue received =>
    split at h
    case isTrue => exact next_inj h ▸ .toNobody (receives_listening received)
    case isFalse somebody =>
      split at h
      case isTrue => exact next_inj h ▸ .stands
      case isFalse quiet =>
        split at h
        · next msg read =>
          simp only [Bool.or_eq_true, not_or, Bool.not_eq_true] at quiet
          exact next_inj h ▸ .accepted ⟨received, Bool.eq_false_iff.mpr somebody, read, quiet.1, quiet.2⟩
        · exact next_inj h ▸ .stands

theorem effect_messageFailed {m : Reception} {e h : Bool} {s t : State}
    (hx : execMessageFailed m e h s = .next t) : Effect c s t := by
  unfold execMessageFailed at hx
  split at hx
  case isFalse => exact next_inj hx ▸ .stands
  case isTrue fails =>
    simp only [State.fails, Bool.and_eq_true] at fails
    exact next_inj hx ▸ .failed e fails.1

theorem effect_runLockTimeout {s t : State} (h : execRunLockTimeout s = .next t) : Effect c s t := by
  unfold execRunLockTimeout at h
  split at h
  case isFalse => exact next_inj h ▸ .stands
  case isTrue rest =>
    simp only [Bool.and_eq_true] at rest
    dsimp only at h
    split at h
    case isTrue ended =>
      simp only [State.dumpOpenEnded, Bool.and_eq_true, beq_iff_eq] at ended
      exact next_inj h ▸ .runClosedFails ended.1
    case isFalse => exact next_inj h ▸ .runClosed rest.1.1

theorem effect_abandon {f : FailureEvent} {s t : State} (h : execAbandon f s = .next t) : Effect c s t := by
  unfold execAbandon at h
  split at h
  case isFalse => exact next_inj h ▸ .stands
  case isTrue abandons =>
    cases f with
    | trailer m e hold =>
      simp only [State.isAbandon, State.fails, Bool.and_eq_true] at abandons
      exact next_inj h ▸ .failed e abandons.2.1
    | breakOff => exact next_inj h ▸ .brokenOff

theorem effect_measurementEnd {key : Num4} {v : BitVec 12} {s t : State} (h : execMeasurementEnd key v s = .next t) :
    Effect c s t := by
  unfold execMeasurementEnd at h
  split at h
  case isFalse => exact next_inj h ▸ .stands
  case isTrue under =>
    dsimp only at h
    split at h
    · exact next_inj h ▸ .measuredToggle key v under.2 under.1
    · exact next_inj h ▸ .measured key v under.2 under.1

theorem effect_senseSample {n : Num4} {high : Bool} {s t : State} (h : execSenseSample n high s = .next t) :
    Effect c s t := by
  unfold execSenseSample at h
  split at h
  case isFalse => exact next_inj h ▸ .stands
  case isTrue driven => exact next_inj h ▸ .sampled n high driven

theorem effect_discardRecord {s t : State} (h : execDiscardRecord s = .next t) : Effect c s t := by
  unfold execDiscardRecord at h
  split at h
  next r head =>
    split at h
    · exact next_inj h ▸ .stands
    · exact next_inj h ▸ .discarded head
  · exact next_inj h ▸ .stands

/-- R32, R63: a state-changing record: far, or applied by its own rule. -/
theorem effect_stamped {s t : State} {r : Record} {e : Byte} {f : State → State} (head : s.useHead = some r)
    (stamp : r.payload.e = some e) (near : stampCase s.timer.period e ≠ .far → Applied s r (f s))
    (h : t = s.applyStamped e f) : Effect c s t := by
  subst h
  unfold State.applyStamped
  split
  case isTrue far => exact .applied head (.far stamp far)
  case isFalse notFar => exact .applied head (near notFar)

theorem effect_applyPlace {s t : State} (h : execApplyPlace s = .next t) : Effect c s t := by
  unfold execApplyPlace at h
  split at h
  · next head => exact effect_stamped head rfl (.place rfl) (next_inj h)
  · exact next_inj h ▸ .stands

theorem effect_applyJoin {s t : State} (h : execApplyJoin s = .next t) : Effect c s t := by
  unfold execApplyJoin at h
  split at h
  · next head => exact effect_stamped head rfl (.join rfl) (next_inj h)
  · exact next_inj h ▸ .stands

theorem effect_applyEvict {s t : State} (h : execApplyEvict s = .next t) : Effect c s t := by
  unfold execApplyEvict at h
  split at h
  · next head => exact effect_stamped head rfl (.evict rfl) (next_inj h)
  · exact next_inj h ▸ .stands

theorem effect_applyShed {s t : State} (h : execApplyShed s = .next t) : Effect c s t := by
  unfold execApplyShed at h
  split at h
  · next head => exact effect_stamped head rfl (.shed rfl) (next_inj h)
  · exact next_inj h ▸ .stands

theorem effect_applyDumpOpen {s t : State} (h : execApplyDumpOpen s = .next t) : Effect c s t := by
  unfold execApplyDumpOpen at h
  split at h
  · next head => exact next_inj h ▸ .applied head (.dumpOpen rfl)
  · exact next_inj h ▸ .stands

theorem effect_applyDumpPart {s t : State} (h : execApplyDumpPart s = .next t) : Effect c s t := by
  unfold execApplyDumpPart at h
  split at h
  · next head => exact next_inj h ▸ .applied head (.dumpPart rfl)
  · exact next_inj h ▸ .stands

theorem effect_applyPresence {s t : State} (h : execApplyPresence s = .next t) : Effect c s t := by
  unfold execApplyPresence at h
  split at h
  · next head =>
    split at h
    · next kind => exact next_inj h ▸ .applied head (.presence kind)
    · exact next_inj h ▸ .stands
  · exact next_inj h ▸ .stands

theorem effect_applyLevel {s t : State} (h : execApplyLevel s = .next t) : Effect c s t := by
  unfold execApplyLevel at h
  split at h
  · next head => exact next_inj h ▸ .applied head (.level rfl)
  · exact next_inj h ▸ .stands

theorem effect_applyScene {s t : State} (h : execApplyScene s = .next t) : Effect c s t := by
  unfold execApplyScene at h
  split at h
  · next head => exact next_inj h ▸ .applied head (.scene rfl)
  · exact next_inj h ▸ .stands

theorem effect_applySceneMore {s t : State} (h : execApplySceneMore s = .next t) : Effect c s t := by
  unfold execApplySceneMore at h
  split at h
  · next head => exact next_inj h ▸ .applied head (.sceneMore rfl)
  · exact next_inj h ▸ .stands

theorem effect_applyQuery {s t : State} (h : execApplyQuery s = .next t) : Effect c s t := by
  unfold execApplyQuery at h
  split at h
  · next head => exact next_inj h ▸ .applied head (.query rfl)
  · exact next_inj h ▸ .stands

end Effects

/-- Every command has one of the effects. -/
theorem exec_effect {c : Instr} {s t : State} (h : exec c s = .next t) : Effect c s t := by
  cases c with
  | coldReset cause => exact effect_coldReset h
  | configurationLoaderStart straps => exact effect_loaderStart h
  | configurationReadComplete memory => exact effect_readComplete h
  | periodEndOfCount => exact next_inj h ▸ effect_periodStartIf s _ _
  | slnFallingEdge => exact next_inj h ▸ effect_periodStartIf s _ _
  | slotBoundary => exact effect_slotBoundary h
  | lineIdle => exact effect_lineIdle h
  | attemptStart => exact effect_attemptStart h
  | arbitrationLoss char bit => exact effect_arbitrationLoss h
  | senderBreakOff => exact next_inj h ▸ .brokenOff
  | messageAccepted m => exact effect_messageAccepted h
  | messageFailed m e hold => exact effect_messageFailed h
  | messageCutShort => exact effect_lineIdle h
  | runLockTimeout => exact effect_runLockTimeout h
  | abandon f => exact effect_abandon h
  | applyPlace => exact effect_applyPlace h
  | applyJoin => exact effect_applyJoin h
  | applyEvict => exact effect_applyEvict h
  | applyShed => exact effect_applyShed h
  | applyDumpOpen => exact effect_applyDumpOpen h
  | applyDumpPart => exact effect_applyDumpPart h
  | applyPresence => exact effect_applyPresence h
  | applyLevel => exact effect_applyLevel h
  | applyScene => exact effect_applyScene h
  | applySceneMore => exact effect_applySceneMore h
  | applyQuery => exact effect_applyQuery h
  | discardRecord => exact effect_discardRecord h
  | adoptionWaitExpiry src => exact next_inj h ▸ effect_periodStartIf s _ _
  | joinWaitExpiry src => exact next_inj h ▸ effect_periodStartIf s _ _
  | presenceCountdownExpiry src => exact next_inj h ▸ effect_periodStartIf s _ _
  | silenceLimit station src => exact next_inj h ▸ effect_periodStartIf s _ _
  | placeCooldownExpiry src => exact next_inj h ▸ effect_periodStartIf s _ _
  | measurementEnd key value => exact effect_measurementEnd h
  | holdTimeReached key src => exact next_inj h ▸ effect_periodStartIf s _ _
  | holdStep key src => exact next_inj h ▸ effect_periodStartIf s _ _
  | forcedRelease key src => exact next_inj h ▸ effect_periodStartIf s _ _
  | senseSample channel high => exact effect_senseSample h

/-- A step takes the front command, if there is one, and has one of its effects on the state with the queue's rest. -/
theorem step_effect {s t : State} (h : step s = .next t) :
    t = s ∨ ∃ c rest, s.pending = c :: rest ∧ exec c { s with pending := rest } = .next t ∧
      Effect c { s with pending := rest } t := by
  unfold step at h
  split at h
  · exact .inl (next_inj h)
  · next c rest queue => exact .inr ⟨c, rest, queue, h, exec_effect h⟩

/-- What every effect keeps, and what does not look at the queue of commands, every step keeps. -/
theorem step_keeps {P : State → Prop} (queue : ∀ s rest, P s → P { s with pending := rest })
    (keeps : ∀ c s t, P s → Effect c s t → P t) {s t : State} (h : P s) (hs : step s = .next t) : P t := by
  rcases step_effect hs with rfl | ⟨_, rest, -, -, effect⟩
  · exact h
  · exact keeps _ _ _ (queue s rest h) effect

end Sys2Proof.Machine

/-! What each effect makes of a channel record: a closed list of moves, for every effect but a cold reset, the end of LOADING and an
OPEN report. -/

namespace Sys2Proof.Machine

/-! ## Folds that leave a part of the state alone -/

/-- What each round of a fold leaves as it was, the fold leaves. -/
theorem foldl_frame {α β γ : Type} {f : γ → α → γ} (g : γ → β) (keeps : ∀ s x, g (f s x) = g s) (xs : List α) (s : γ) :
    g (xs.foldl f s) = g s := by
  induction xs generalizing s with
  | nil => rfl
  | cons x xs ih => rw [List.foldl_cons, ih, keeps]

/-- A relation that each round of a fold is in, and that can be chained, holds between its ends. -/
theorem foldl_related {α γ : Type} {f : γ → α → γ} {R : γ → γ → Prop} (refl : ∀ s, R s s)
    (trans : ∀ s t u, R s t → R t u → R s u) (round : ∀ s x, R s (f s x)) (xs : List α) (s : γ) : R s (xs.foldl f s) := by
  induction xs generalizing s with
  | nil => exact refl s
  | cons x xs ih => exact trans _ _ _ (round s x) (ih _)

/-! ## The frame of a state-changing record -/

/-- R63 steps 1 to 3: replica, count and check taken, own changes entered, and the blank flag of an overdue record. -/
def State.recorded (s : State) (e : Byte) (r : Replica) (touched : List Num4) : State :=
  (({ s with engine := s.engine.recount r } : State).addPendings (s.changePeriod e) touched).blankIfOverdue e

theorem commit_eq (s : State) (e : Byte) (r : Replica) (touched : List Num4) (f : State → State) :
    s.commit e r touched f =
      (if givesRelief s.engine.replica r then (f (s.recorded e r touched)).giveRelief
        else f (s.recorded e r touched)).settleSlots := rfl

@[simp] theorem recorded_loader (s : State) (e : Byte) (r : Replica) (touched : List Num4) :
    (s.recorded e r touched).loader = s.loader := by simp [State.recorded]
@[simp] theorem recorded_cfg (s : State) (e : Byte) (r : Replica) (touched : List Num4) :
    (s.recorded e r touched).cfg = s.cfg := by simp [State.recorded]
@[simp] theorem recorded_timer (s : State) (e : Byte) (r : Replica) (touched : List Num4) :
    (s.recorded e r touched).timer = s.timer := by simp [State.recorded]
@[simp] theorem recorded_line (s : State) (e : Byte) (r : Replica) (touched : List Num4) :
    (s.recorded e r touched).line = s.line := by simp [State.recorded]
@[simp] theorem recorded_engine (s : State) (e : Byte) (r : Replica) (touched : List Num4) :
    (s.recorded e r touched).engine = s.engine.recount r := by simp [State.recorded]
@[simp] theorem recorded_chans (s : State) (e : Byte) (r : Replica) (touched : List Num4) :
    (s.recorded e r touched).chans = s.chans := by simp [State.recorded]
@[simp] theorem recorded_ctl (s : State) (e : Byte) (r : Replica) (touched : List Num4) :
    (s.recorded e r touched).ctl = s.ctl := by simp [State.recorded]
@[simp] theorem recorded_touch (s : State) (e : Byte) (r : Replica) (touched : List Num4) :
    (s.recorded e r touched).touch = s.touch := by simp [State.recorded]

/-- What recording, hand-off, relief and the settling of the slots leave as it was, a state-changing record leaves. -/
theorem commit_frame {β : Type} (g : State → β) {e : Byte} {r : Replica} {touched : List Num4} {f : State → State}
    (s : State) (recorded : g (s.recorded e r touched) = g s) (handOff : ∀ s, g (f s) = g s)
    (relief : ∀ s : State, g s.giveRelief = g s) (settle : ∀ s : State, g s.settleSlots = g s) :
    g (s.commit e r touched f) = g s := by
  rw [commit_eq, settle]
  split
  · rw [relief, handOff, recorded]
  · rw [handOff, recorded]

theorem commit_loader {f : State → State} (hf : ∀ s, (f s).loader = s.loader) (s : State) (e : Byte) (r : Replica)
    (touched : List Num4) : (s.commit e r touched f).loader = s.loader :=
  commit_frame State.loader s (recorded_loader s e r touched) hf State.giveRelief_loader State.settleSlots_loader

theorem commit_cfg {f : State → State} (hf : ∀ s, (f s).cfg = s.cfg) (s : State) (e : Byte) (r : Replica)
    (touched : List Num4) : (s.commit e r touched f).cfg = s.cfg :=
  commit_frame State.cfg s (recorded_cfg s e r touched) hf State.giveRelief_cfg State.settleSlots_cfg

theorem commit_timer {f : State → State} (hf : ∀ s, (f s).timer = s.timer) (s : State) (e : Byte) (r : Replica)
    (touched : List Num4) : (s.commit e r touched f).timer = s.timer :=
  commit_frame State.timer s (recorded_timer s e r touched) hf State.giveRelief_timer State.settleSlots_timer

theorem commit_ctl {f : State → State} (hf : ∀ s, (f s).ctl = s.ctl) (s : State) (e : Byte) (r : Replica)
    (touched : List Num4) : (s.commit e r touched f).ctl = s.ctl :=
  commit_frame State.ctl s (recorded_ctl s e r touched) hf State.giveRelief_ctl State.settleSlots_ctl

theorem commit_touch {f : State → State} (hf : ∀ s, (f s).touch = s.touch) (s : State) (e : Byte) (r : Replica)
    (touched : List Num4) : (s.commit e r touched f).touch = s.touch :=
  commit_frame State.touch s (recorded_touch s e r touched) hf State.giveRelief_touch State.settleSlots_touch

theorem commit_out {f : State → State} (hf : ∀ s, (f s).out = s.out) (s : State) (e : Byte) (r : Replica)
    (touched : List Num4) : (s.commit e r touched f).out = (s.recorded e r touched).out := by
  rw [commit_eq, State.settleSlots_out]
  split
  · rw [State.giveRelief_out, hf]
  · rw [hf]

/-- R63 step 1: the replica and its check are those recorded, and the rest of the engine is the hand-off's. -/
theorem commit_engine (s : State) (e : Byte) (r : Replica) (touched : List Num4) (f : State → State) :
    (s.commit e r touched f).engine = (f (s.recorded e r touched)).engine := by
  rw [commit_eq, State.settleSlots_engine]
  split
  · rw [State.giveRelief_engine]
  · rfl

theorem commit_line {f : State → State} (hf : ∀ s, (f s).line = s.line) (s : State) (e : Byte) (r : Replica)
    (touched : List Num4) :
    (s.commit e r touched f).line = { s.line with slots := (s.commit e r touched f).settled s.line.slots } := by
  rw [commit_eq, settleSlots_eq]
  split
  · simp only [State.giveRelief_line, hf, recorded_line]
    rfl
  · simp only [hf, recorded_line]
    rfl

/-! ## The hand-offs of own outcomes -/

/-- R69, R143: own outcomes handed on one by one. -/
def handOutcomes (os : List (Num4 × PlaceOutcome)) (s : State) : State := os.foldl State.handOutcome s

/-- R76, R145: shed own channels handed on one by one. -/
def handSheds (chs : List Num4) (s : State) : State := chs.foldl State.handShed s

@[simp] theorem handOutcomes_loader (os : List (Num4 × PlaceOutcome)) (s : State) :
    (handOutcomes os s).loader = s.loader := foldl_frame State.loader State.handOutcome_loader os s
@[simp] theorem handOutcomes_cfg (os : List (Num4 × PlaceOutcome)) (s : State) :
    (handOutcomes os s).cfg = s.cfg := foldl_frame State.cfg State.handOutcome_cfg os s
@[simp] theorem handOutcomes_timer (os : List (Num4 × PlaceOutcome)) (s : State) :
    (handOutcomes os s).timer = s.timer := foldl_frame State.timer State.handOutcome_timer os s
@[simp] theorem handOutcomes_line (os : List (Num4 × PlaceOutcome)) (s : State) :
    (handOutcomes os s).line = s.line := foldl_frame State.line State.handOutcome_line os s
@[simp] theorem handOutcomes_out (os : List (Num4 × PlaceOutcome)) (s : State) :
    (handOutcomes os s).out = s.out := foldl_frame State.out State.handOutcome_out os s
@[simp] theorem handOutcomes_ctl (os : List (Num4 × PlaceOutcome)) (s : State) :
    (handOutcomes os s).ctl = s.ctl := foldl_frame State.ctl State.handOutcome_ctl os s
@[simp] theorem handOutcomes_touch (os : List (Num4 × PlaceOutcome)) (s : State) :
    (handOutcomes os s).touch = s.touch := foldl_frame State.touch State.handOutcome_touch os s

/-- R69: of the engine a hand-off changes the rejected-entry counter alone. -/
theorem handOutcome_engine (s : State) (x : Num4 × PlaceOutcome) :
    (s.handOutcome x).engine = { s.engine with rejected := (s.handOutcome x).engine.rejected } := by
  unfold State.handOutcome
  dsimp only
  split <;> rfl

theorem handOutcomes_engine (os : List (Num4 × PlaceOutcome)) (s : State) :
    (handOutcomes os s).engine = { s.engine with rejected := (handOutcomes os s).engine.rejected } :=
  foldl_related (R := fun s t : State => t.engine = { s.engine with rejected := t.engine.rejected })
    (fun _ => rfl) (fun _ _ _ h h' => by rw [h', h]) handOutcome_engine os s

@[simp] theorem handSheds_loader (chs : List Num4) (s : State) : (handSheds chs s).loader = s.loader :=
  foldl_frame State.loader State.handShed_loader chs s
@[simp] theorem handSheds_cfg (chs : List Num4) (s : State) : (handSheds chs s).cfg = s.cfg :=
  foldl_frame State.cfg State.handShed_cfg chs s
@[simp] theorem handSheds_timer (chs : List Num4) (s : State) : (handSheds chs s).timer = s.timer :=
  foldl_frame State.timer State.handShed_timer chs s
@[simp] theorem handSheds_line (chs : List Num4) (s : State) : (handSheds chs s).line = s.line :=
  foldl_frame State.line State.handShed_line chs s
@[simp] theorem handSheds_engine (chs : List Num4) (s : State) : (handSheds chs s).engine = s.engine :=
  foldl_frame State.engine State.handShed_engine chs s
@[simp] theorem handSheds_out (chs : List Num4) (s : State) : (handSheds chs s).out = s.out :=
  foldl_frame State.out State.handShed_out chs s
@[simp] theorem handSheds_ctl (chs : List Num4) (s : State) : (handSheds chs s).ctl = s.ctl :=
  foldl_frame State.ctl State.handShed_ctl chs s
@[simp] theorem handSheds_touch (chs : List Num4) (s : State) : (handSheds chs s).touch = s.touch :=
  foldl_frame State.touch State.handShed_touch chs s

/-! ## The four state-changing records -/

/-- R65: the replica after a PLACE. -/
def State.placedReplica (s : State) (source : Nat) (es : List PlaceEntry) : Replica :=
  (placeEntries s.cfg.guard s.budgetNow source s.engine.replica es).1

/-- R69: the outcomes of a PLACE that are this node's own. -/
def State.ownOutcomes (s : State) (source : Nat) (es : List PlaceEntry) : List (Num4 × PlaceOutcome) :=
  if source = s.own then (placeEntries s.cfg.guard s.budgetNow source s.engine.replica es).2 else []

/-- R63 step 3: the channels that some outcomes touch. -/
def touchedBy (os : List (Num4 × PlaceOutcome)) : List Num4 := (os.filter fun x => x.2.touches).map (·.1)

theorem applyPlaceRecord_eq (s : State) (source : Nat) (e : Byte) (es : List PlaceEntry) :
    s.applyPlaceRecord source e es =
      s.commit e (s.placedReplica source es) (touchedBy (s.ownOutcomes source es))
        (handOutcomes (s.ownOutcomes source es)) := rfl

/-- R71: the own channels that a JOIN of `source` takes an entry from. -/
def State.joinTouched (s : State) (source : Nat) : List Num4 :=
  if source = s.own then ownChannels s.own (fun c => c.station == source) s.engine.replica.claims else []

/-- R71, R119, R121: the node after a JOIN whose digest matches, but for the dump-owed flag. -/
def State.joined (s : State) (source : Nat) (e : Byte) : State :=
  let s1 := s.commit e (s.engine.replica.joined source) (s.joinTouched source) id
  { s1 with
    ctl :=
      { s1.ctl with
        silence := addSilence s.own source s.engine.replica.roster s1.ctl.silence
        ownIncarnation :=
          if source = s.own then incarnationIn s.own s1.engine.replica.roster else s1.ctl.ownIncarnation } }

/-- R64: the dump-owed flag set. -/
def State.oweDump (s : State) : State := { s with engine := { s.engine with dumpOwed := true } }

theorem applyJoinRecord_match {s : State} {source : Nat} {e : Byte} {digest : Word16} (h : digest = s.loader.digest) :
    s.applyJoinRecord source e digest = (s.joined source e).oweDump := by
  unfold State.applyJoinRecord
  rw [if_pos h]
  rfl

theorem applyJoinRecord_mismatch {s : State} {source : Nat} {e : Byte} {digest : Word16}
    (h : digest ≠ s.loader.digest) : s.applyJoinRecord source e digest = (s.blankIfOverdue e).oweDump := by
  unfold State.applyJoinRecord
  rw [if_neg h]
  rfl

/-- R72: the replica after an EVICT without a matching own pair. -/
def State.evictedReplica (s : State) (ps : List Pair) : Replica := (evictPairs s.own s.engine.replica ps).1

/-- R121: the silence counters of stations outside the Roster `ms` removed. -/
def State.pruned (s : State) (ms : List Member) : State :=
  { s with ctl := { s.ctl with silence := pruneSilence ms s.ctl.silence } }

theorem applyEvictRecord_self {s : State} {e : Byte} {ps : List Pair}
    (h : (evictPairs s.own s.engine.replica ps).2 = true) : s.applyEvictRecord e ps = s.warmRestart := by
  simp only [State.applyEvictRecord, h, if_true]

theorem applyEvictRecord_others {s : State} {e : Byte} {ps : List Pair}
    (h : (evictPairs s.own s.engine.replica ps).2 = false) :
    s.applyEvictRecord e ps =
      (s.pruned (s.evictedReplica ps).roster).commit e (s.evictedReplica ps) [] id := by
  simp only [State.applyEvictRecord, h, Bool.false_eq_true, if_false]
  rfl

/-- R74, R75: the replica after a SHED. -/
def State.shedTo (s : State) (l : Num4) : Replica := (shedReplica s.cfg.budget s.engine.replica l).1

/-- R76: the own channels whose entries a SHED removes. -/
def State.shedOwn (s : State) (l : Num4) : List Num4 :=
  ownChannels s.own (fun _ => true) (shedReplica s.cfg.budget s.engine.replica l).2

theorem applyShedRecord_eq (s : State) (e : Byte) (l : Num4) :
    s.applyShedRecord e l = s.commit e (s.shedTo l) (s.shedOwn l) (handSheds (s.shedOwn l)) := rfl

@[simp] theorem applyPlaceRecord_loader (s : State) (source : Nat) (e : Byte) (es : List PlaceEntry) :
    (s.applyPlaceRecord source e es).loader = s.loader := commit_loader (handOutcomes_loader _) _ _ _ _
@[simp] theorem applyPlaceRecord_cfg (s : State) (source : Nat) (e : Byte) (es : List PlaceEntry) :
    (s.applyPlaceRecord source e es).cfg = s.cfg := commit_cfg (handOutcomes_cfg _) _ _ _ _
@[simp] theorem applyPlaceRecord_timer (s : State) (source : Nat) (e : Byte) (es : List PlaceEntry) :
    (s.applyPlaceRecord source e es).timer = s.timer := commit_timer (handOutcomes_timer _) _ _ _ _
@[simp] theorem applyPlaceRecord_ctl (s : State) (source : Nat) (e : Byte) (es : List PlaceEntry) :
    (s.applyPlaceRecord source e es).ctl = s.ctl := commit_ctl (handOutcomes_ctl _) _ _ _ _
@[simp] theorem applyPlaceRecord_touch (s : State) (source : Nat) (e : Byte) (es : List PlaceEntry) :
    (s.applyPlaceRecord source e es).touch = s.touch := commit_touch (handOutcomes_touch _) _ _ _ _
@[simp] theorem applyShedRecord_loader (s : State) (e : Byte) (l : Num4) :
    (s.applyShedRecord e l).loader = s.loader := commit_loader (handSheds_loader _) _ _ _ _
@[simp] theorem applyShedRecord_cfg (s : State) (e : Byte) (l : Num4) :
    (s.applyShedRecord e l).cfg = s.cfg := commit_cfg (handSheds_cfg _) _ _ _ _
@[simp] theorem applyShedRecord_timer (s : State) (e : Byte) (l : Num4) :
    (s.applyShedRecord e l).timer = s.timer := commit_timer (handSheds_timer _) _ _ _ _
@[simp] theorem applyShedRecord_ctl (s : State) (e : Byte) (l : Num4) :
    (s.applyShedRecord e l).ctl = s.ctl := commit_ctl (handSheds_ctl _) _ _ _ _
@[simp] theorem applyShedRecord_touch (s : State) (e : Byte) (l : Num4) :
    (s.applyShedRecord e l).touch = s.touch := commit_touch (handSheds_touch _) _ _ _ _

@[simp] theorem oweDump_loader (s : State) : s.oweDump.loader = s.loader := rfl
@[simp] theorem oweDump_cfg (s : State) : s.oweDump.cfg = s.cfg := rfl
@[simp] theorem oweDump_timer (s : State) : s.oweDump.timer = s.timer := rfl
@[simp] theorem oweDump_line (s : State) : s.oweDump.line = s.line := rfl
@[simp] theorem oweDump_chans (s : State) : s.oweDump.chans = s.chans := rfl
@[simp] theorem oweDump_out (s : State) : s.oweDump.out = s.out := rfl
@[simp] theorem oweDump_ctl (s : State) : s.oweDump.ctl = s.ctl := rfl
@[simp] theorem oweDump_touch (s : State) : s.oweDump.touch = s.touch := rfl

@[simp] theorem pruned_loader (s : State) (ms : List Member) : (s.pruned ms).loader = s.loader := rfl
@[simp] theorem pruned_cfg (s : State) (ms : List Member) : (s.pruned ms).cfg = s.cfg := rfl
@[simp] theorem pruned_timer (s : State) (ms : List Member) : (s.pruned ms).timer = s.timer := rfl
@[simp] theorem pruned_line (s : State) (ms : List Member) : (s.pruned ms).line = s.line := rfl
@[simp] theorem pruned_engine (s : State) (ms : List Member) : (s.pruned ms).engine = s.engine := rfl
@[simp] theorem pruned_chans (s : State) (ms : List Member) : (s.pruned ms).chans = s.chans := rfl
@[simp] theorem pruned_out (s : State) (ms : List Member) : (s.pruned ms).out = s.out := rfl
@[simp] theorem pruned_touch (s : State) (ms : List Member) : (s.pruned ms).touch = s.touch := rfl

@[simp] theorem joined_loader (s : State) (source : Nat) (e : Byte) : (s.joined source e).loader = s.loader :=
  commit_loader (fun _ => rfl) _ _ _ _
@[simp] theorem joined_cfg (s : State) (source : Nat) (e : Byte) : (s.joined source e).cfg = s.cfg :=
  commit_cfg (fun _ => rfl) _ _ _ _
@[simp] theorem joined_timer (s : State) (source : Nat) (e : Byte) : (s.joined source e).timer = s.timer :=
  commit_timer (fun _ => rfl) _ _ _ _
@[simp] theorem joined_touch (s : State) (source : Nat) (e : Byte) : (s.joined source e).touch = s.touch :=
  commit_touch (fun _ => rfl) _ _ _ _

/-- R119, R121: a JOIN changes the silence counters and the own incarnation of the controller. -/
theorem joined_ctl (s : State) (source : Nat) (e : Byte) :
    (s.joined source e).ctl =
      { s.ctl with
        silence := addSilence s.own source s.engine.replica.roster s.ctl.silence
        ownIncarnation :=
          if source = s.own then incarnationIn s.own (joinRoster source s.engine.replica.roster)
          else s.ctl.ownIncarnation } := by
  simp only [State.joined, commit_ctl (fun _ => rfl : ∀ s : State, (id s).ctl = s.ctl), commit_engine, id,
    recorded_engine]
  rfl

theorem joined_engine (s : State) (source : Nat) (e : Byte) :
    (s.joined source e).engine = s.engine.recount (s.engine.replica.joined source) := by
  simp only [State.joined, commit_engine, id, recorded_engine]

/-! ## The moves of a channel record -/

/-- What an event other than an OPEN report makes of a channel record, of a node whose placeable length is `a`. -/
inductive Channel.Moves (a : Nat) : Channel → Channel → Prop
  | refl (c : Channel) : Moves a c c
  | trans {c d e : Channel} : Moves a c d → Moves a d e → Moves a c e
  | operate (op : LevelOp) (v : Nat) (c : Channel) : Moves a c (c.operate a op v)
  | outcome (holds : Bool) (o : PlaceOutcome) (c : Channel) : Moves a c (c.outcome holds o)
  | relief (c : Channel) : Moves a c c.relief
  | shed (c : Channel) : Moves a c c.shed
  | resolve (holds : Bool) (c : Channel) : Moves a c (c.resolve holds)
  | restart (c : Channel) : Moves a c c.restart
  | taken (c : Channel) : Moves a c c.taken
  | handBack (why : NoContribution) {c : Channel} (owed : c.owed = true) : Moves a c (c.taken.handBack why)

/-- A move keeps the law of R130 and R134. -/
theorem Channel.Moves.ok {a : Nat} {c d : Channel} (h : Channel.Moves a c d) : c.Ok a → d.Ok a := by
  induction h with
  | refl c => exact id
  | trans _ _ ih ih' => exact ih' ∘ ih
  | operate op v c => exact operate_ok op
  | outcome holds o c => exact outcome_ok holds o
  | relief c => exact relief_ok
  | shed c => exact shed_ok
  | resolve holds c => exact resolve_ok holds
  | restart c => exact restart_ok
  | taken c => exact id
  | handBack why owed => exact handBack_ok why owed

/-- A move leaves the configuration of a channel. -/
theorem Channel.Moves.config {a : Nat} {c d : Channel} (h : Channel.Moves a c d) : d.config = c.config := by
  have all := fun (c : Channel) v op holds o why => channel_config c a v op holds o why
  induction h with
  | refl c => rfl
  | trans _ _ ih ih' => exact ih'.trans ih
  | operate op v c => exact (all c v op true .noChange .noRoom).1
  | outcome holds o c => exact (all c 0 .set holds o .noRoom).2.1
  | relief c => exact (all c 0 .set true .noChange .noRoom).2.2.1
  | shed c => exact (all c 0 .set true .noChange .noRoom).2.2.2.1
  | resolve holds c => exact (all c 0 .set holds .noChange .noRoom).2.2.2.2.2.1
  | restart c => exact (all c 0 .set true .noChange .noRoom).2.2.2.2.2.2.1
  | taken c => rfl
  | @handBack why c owed => exact (all c 0 .set true .noChange why).2.2.2.2.2.2.2

/-- No move makes a channel UNUSED or FAULTED. -/
theorem Channel.Moves.state {a : Nat} {c d : Channel} (h : Channel.Moves a c d) :
    (d.state = .unused → c.state = .unused) ∧ (d.state = .faulted → c.state = .faulted) := by
  induction h with
  | refl c => exact ⟨id, id⟩
  | trans _ _ ih ih' => exact ⟨ih.1 ∘ ih'.1, ih.2 ∘ ih'.2⟩
  | operate op v c => unfold Channel.operate; split <;> simp_all
  | outcome holds o c =>
    unfold Channel.outcome
    repeat' split
    all_goals simp_all
  | relief c => unfold Channel.relief; split <;> simp_all
  | shed c => unfold Channel.shed; split <;> simp_all
  | resolve holds c =>
    unfold Channel.resolve
    repeat' split
    all_goals simp_all
  | restart c =>
    unfold Channel.restart
    repeat' split
    all_goals simp_all
  | taken c => exact ⟨id, id⟩
  | @handBack why c owed =>
    cases why with
    | stands len => simp only [Channel.handBack]; split <;> simp
    | darkAndEmpty =>
      by_cases faulted : c.state = .faulted
      · simp [Channel.handBack, Channel.taken, faulted]
      · simp [Channel.handBack, Channel.taken, faulted]
    | noRoom => simp [Channel.handBack]

/-- Every channel has made a move, under the same line parameters. -/
def ChansMove (s t : State) : Prop :=
  t.cfg = s.cfg ∧ ∀ n, Channel.Moves s.cfg.placeable (s.chans.get n) (t.chans.get n)

theorem ChansMove.of_eq {s t : State} (cfg : t.cfg = s.cfg) (chans : t.chans = s.chans) : ChansMove s t :=
  ⟨cfg, fun _ => chans ▸ .refl _⟩

theorem ChansMove.refl (s : State) : ChansMove s s := .of_eq rfl rfl

theorem ChansMove.trans {s t u : State} (h : ChansMove s t) (g : ChansMove t u) : ChansMove s u :=
  ⟨g.1.trans h.1, fun n => (h.2 n).trans (h.1 ▸ g.2 n)⟩

/-- One channel made a move, the others stand. -/
theorem ChansMove.set {s t : State} {n : Num4} {c : Channel} (cfg : t.cfg = s.cfg) (chans : t.chans = s.chans.set n c)
    (h : Channel.Moves s.cfg.placeable (s.chans.get n) c) : ChansMove s t := by
  refine ⟨cfg, fun j => ?_⟩
  rw [chans, Four.get_set]
  split
  · next eq => exact eq ▸ h
  · exact .refl _

theorem ChansMove.map {s t : State} {f : Channel → Channel} (cfg : t.cfg = s.cfg) (chans : t.chans = s.chans.map f)
    (h : ∀ c, Channel.Moves s.cfg.placeable c (f c)) : ChansMove s t :=
  ⟨cfg, fun n => by rw [chans, Four.get_map]; exact h _⟩

/-! ## Which channels each shared operation moves -/

theorem halt_chansMove (s : State) (cause : HaltCause) : ChansMove s (s.halt cause) := .map rfl rfl .restart

theorem warmRestart_chansMove (s : State) : ChansMove s s.warmRestart :=
  .map (State.warmRestart_cfg s) (by unfold State.warmRestart; dsimp only; split <;> rfl) .restart

theorem enterRun_chansMove (s : State) : ChansMove s s.enterRun :=
  ⟨rfl, fun n => by simp only [State.enterRun, Four.get_tabulate]; exact .resolve _ _⟩

theorem found_chansMove (s : State) (p : Byte) : ChansMove s (s.found p) :=
  ChansMove.trans (t := { s with
    timer := { s.timer with period := p }
    engine := { s.engine with replica := .founding s.own, heldCheck := stateCheck (.founding s.own) } })
    (.of_eq rfl rfl) (enterRun_chansMove _)

theorem handOutcomes_chansMove (os : List (Num4 × PlaceOutcome)) (s : State) : ChansMove s (handOutcomes os s) := by
  refine foldl_related (R := ChansMove) .refl (fun _ _ _ => .trans) (fun s x => ?_) os s
  refine .set (n := x.1) (State.handOutcome_cfg s x) ?_ (.outcome (s.holdsEntry x.1) x.2 _)
  unfold State.handOutcome
  dsimp only
  split <;> rfl

theorem handSheds_chansMove (chs : List Num4) (s : State) : ChansMove s (handSheds chs s) :=
  foldl_related (f := State.handShed) .refl (fun _ _ _ => .trans) (fun _ n => .set (n := n) rfl rfl (.shed _)) chs s

theorem commit_chansMove {f : State → State} (hf : ∀ s, ChansMove s (f s)) (s : State) (e : Byte) (r : Replica)
    (touched : List Num4) : ChansMove s (s.commit e r touched f) := by
  have before : ChansMove s (f (s.recorded e r touched)) :=
    .trans (.of_eq (recorded_cfg s e r touched) (recorded_chans s e r touched)) (hf _)
  rw [commit_eq]
  refine .trans ?_ (.of_eq (State.settleSlots_cfg _) (State.settleSlots_chans _))
  split
  · exact before.trans (.map rfl rfl .relief)
  · exact before

theorem operateMask_chansMove {s t : State} {op : LevelOp} {v : Nat} {mask : BitVec 4} (cfg : t.cfg = s.cfg)
    (chans : t.chans = operateMask s.cfg.placeable op v mask s.chans) : ChansMove s t := by
  refine ⟨cfg, fun n => ?_⟩
  rw [chans, operateMask_get]
  split
  · exact .operate _ _ _
  · exact .refl _

theorem keyOperation_chansMove (s : State) (k : Num4) (op : LevelOp) (v : Nat) : ChansMove s (s.keyOperation k op v) := by
  by_cases own : (s.touch.key.get k).bound = s.own
  · exact operateMask_chansMove (State.keyOperation_cfg s k op v) (by rw [keyOperation_own op v own])
  · exact .of_eq (State.keyOperation_cfg s k op v) (by rw [keyOperation_far op v own])

theorem keyPeriodStart_chansMove (s : State) (k : Num4) : ChansMove s (s.keyPeriodStart k) := by
  unfold State.keyPeriodStart
  split
  next key op _ =>
    have touched : ChansMove s { s with touch := { s.touch with key := s.touch.key.set k key } } := .of_eq rfl rfl
    dsimp only
    split
    · exact touched.trans (keyOperation_chansMove _ _ _ _)
    · exact touched

theorem keySteps_chansMove (s : State) : ChansMove s s.keySteps :=
  (((keyPeriodStart_chansMove s 0).trans (keyPeriodStart_chansMove _ 1)).trans (keyPeriodStart_chansMove _ 2)).trans
    (keyPeriodStart_chansMove _ 3)

theorem periodStart_chansMove (s : State) (pull : Bool) : ChansMove s (s.periodStart pull) := by
  have before : ChansMove s (s.timerStarted pull).outputPeriodStart := .of_eq (by simp [State.timerStarted]) (by simp [State.timerStarted])
  obtain ⟨-, moves⟩ := before.trans (keySteps_chansMove _)
  exact ⟨State.periodStart_cfg s pull, fun n => by rw [periodStart_chans]; exact moves n⟩

/-- One level assigned: the channels move (R138). -/
theorem assignLevel_moves (own a idx level : Nat) (cs : Four Channel) (n : Num4) :
    Channel.Moves a (cs.get n) ((assignLevel own a idx level cs).get n) := by
  rw [assignLevel, Four.get_tabulate]
  split
  · exact .operate _ _ _
  · exact .refl _

theorem assignLevels_moves (own a : Nat) (ls : List Byte) (cur : Cursor) (cs : Four Channel) (n : Num4) :
    Channel.Moves a (cs.get n) ((assignLevels own a ls cur cs).2.get n) := by
  induction ls generalizing cur cs with
  | nil => exact .refl _
  | cons l ls ih =>
    have first := assignLevel_moves own a cur.next.toNat l.toNat cs n
    unfold assignLevels
    dsimp only
    split
    · exact first
    · exact first.trans (ih _ _)

theorem sceneStart_moves (own a source : Nat) (f l : Byte) (ls : List Byte) (cs : Four Channel) (n : Num4) :
    Channel.Moves a (cs.get n) ((sceneStart own a source f l ls cs).2.get n) := by
  unfold sceneStart
  dsimp only
  split
  · exact assignLevels_moves _ _ _ _ _ _
  · exact .refl _

theorem sceneContinue_moves (own a source : Nat) (ls : List Byte) (cur : Cursor) (cs : Four Channel) (n : Num4) :
    Channel.Moves a (cs.get n) ((sceneContinue own a source ls cur cs).2.get n) := by
  unfold sceneContinue
  split
  · exact assignLevels_moves _ _ _ _ _ _
  · exact .refl _

/-! ## The build of a PLACE, and the start of an attempt -/

theorem placeBuildChannel_moves (a budget guard own : Nat) (claims : List Claim) (b : PlaceBuild) (m n : Num4) :
    Channel.Moves a (b.chans.get n) ((b.channel budget guard own claims m).chans.get n) := by
  have set : ∀ c, Channel.Moves a (b.chans.get m) c → Channel.Moves a (b.chans.get n) ((b.chans.set m c).get n) := by
    intro c move
    rw [Four.get_set]
    split
    · next eq => exact eq ▸ move
    · exact .refl _
  unfold PlaceBuild.channel
  dsimp only
  by_cases owed : (b.chans.get m).owed = true
  · have taken := set _ (.taken _)
    have back := fun why => set _ (.handBack why owed)
    simp only [owed, Bool.not_true, Bool.false_eq_true, if_false]
    repeat' split
    · exact taken
    · exact back _
    · exact back _
    · exact taken
    · exact taken
    · exact back _
  · simp only [Bool.not_eq_true] at owed
    simp only [owed, Bool.not_false, if_true]
    exact .refl _

theorem placeBuild_moves (s : State) (a : Nat) (n : Num4) :
    Channel.Moves a (s.chans.get n) (s.placeBuild.chans.get n) :=
  foldl_related (f := PlaceBuild.channel s.budgetNow s.cfg.guard s.own s.engine.replica.claims)
    (s := { map := s.engine.replica.slotMap, entries := [], chans := s.chans, freeIndex := s.freeIndex })
    (R := fun b b' : PlaceBuild => Channel.Moves a (b.chans.get n) (b'.chans.get n))
    (fun _ => .refl _) (fun _ _ _ => .trans) (fun b m => placeBuildChannel_moves a _ _ _ _ b m n) allFour

/-- A build changes the channel records and the free values used, and neither for a slot other than PLACE. -/
theorem buildFor_eq (s : State) (id : SlotId) :
    (s.buildFor id).1 = s ∨
      (id = .place ∧ (s.buildFor id).1 = { s with chans := s.placeBuild.chans, freeIndex := s.placeBuild.freeIndex }) := by
  unfold State.buildFor
  cases id with
  | place => right; dsimp only; split <;> exact ⟨rfl, rfl⟩
  | joinFound => left; dsimp only; split <;> rfl
  | dump => left; dsimp only; repeat' split
            all_goals rfl
  | evict => left; dsimp only; split <;> rfl
  | presence => left; rfl
  | report => left; dsimp only; split <;> rfl
  | level k => left; dsimp only; split <;> rfl

/-- R91: the slot chosen is one of the list. -/
theorem select_mem {s : State} {ids : List SlotId} {id : SlotId} (h : s.select ids = some id) : id ∈ ids := by
  have chosen : ∀ (ids : List SlotId) (best : Option SlotId),
      ids.foldl
        (fun best id =>
          match best with
          | none => some id
          | some b => if s.arbitrationValue id < s.arbitrationValue b then some id else some b) best = some id →
      best = some id ∨ id ∈ ids := by
    intro ids
    induction ids with
    | nil => exact fun best hb => .inl hb
    | cons x xs ih =>
      intro best hb
      rcases ih _ hb with hx | hx
      · cases best with
        | none => exact .inr (by simp_all)
        | some b =>
          simp only at hx
          split at hx
          · exact .inr (by simp_all)
          · exact .inl hx
      · exact .inr (List.mem_cons_of_mem _ hx)
  rcases chosen ids none h with hn | hm
  · cases hn
  · exact hm

/-- R93: the state with the attempt `a` begun, if one is. -/
def State.withAttempt (s : State) : Option Attempt → State
  | some a => { s with line := { s.line with idle := false, attempt := some a } }
  | none => s

/-- What the start of an attempt can change: channel records and free values used by a build, and the attempt begun, of a slot
of the list. -/
theorem tryBuilds_eq (n : Nat) (ids : List SlotId) (s : State) :
    ∃ cs f a, State.tryBuilds n ids s = { s with chans := cs, freeIndex := f }.withAttempt a ∧
      (∀ i, Channel.Moves s.cfg.placeable (s.chans.get i) (cs.get i)) ∧
      ∀ x, a = some x → x.slot ∈ ids ∧ x.crossed = false := by
  induction n generalizing ids s with
  | zero => exact ⟨s.chans, s.freeIndex, none, rfl, fun _ => .refl _, by simp⟩
  | succ n ih =>
    unfold State.tryBuilds
    split
    · exact ⟨s.chans, s.freeIndex, none, rfl, fun _ => .refl _, by simp⟩
    next id selected =>
      have built : ∃ cs f, (s.buildFor id).1 = { s with chans := cs, freeIndex := f } ∧
          ∀ i, Channel.Moves s.cfg.placeable (s.chans.get i) (cs.get i) := by
        rcases buildFor_eq s id with h | ⟨-, h⟩
        · exact ⟨s.chans, s.freeIndex, h, fun _ => .refl _⟩
        · exact ⟨_, _, h, placeBuild_moves s _⟩
      obtain ⟨cs, f, eq, moves⟩ := built
      split
      next s' m sn result =>
        rw [result] at eq
        subst eq
        exact ⟨cs, f, some _, rfl, moves, by rintro x ⟨rfl⟩; exact ⟨select_mem selected, rfl⟩⟩
      next s' result =>
        rw [result] at eq
        subst eq
        obtain ⟨cs', f', a, eq', moves', slot⟩ := ih (ids.erase id) _
        exact ⟨cs', f', a, eq', fun i => (moves i).trans (moves' i),
          fun x hx => ⟨List.mem_of_mem_erase (slot x hx).1, (slot x hx).2⟩⟩

end Sys2Proof.Machine

/-! The acceptance of a message taken apart (R52): what it marks, what the controller decides, and what becomes of the own attempt;
and the effects that move the channels. -/

namespace Sys2Proof.Machine

/-! ## The stages of an acceptance -/

/-- R52: the attempt ended and the message queued and marked, and its period number adopted: all but decision and own attempt. -/
def State.heard (s : State) (queued boundary : Bool) (m : Message) : State :=
  (((({ s with line := { s.line with idle := false, attempt := none } } : State).acceptQueue queued boundary m).acceptMarks
    m).acceptPeriod boundary m)

/-- R102 to R105: what the own attempt makes of a state, when there is one. -/
def State.ownEnd (s : State) : Option Attempt → State
  | some a => s.acceptOwn a
  | none => s

theorem accept_cases (s : State) (queued given : Bool) (m : Message) :
    (s.duplicate m = true ∧ s.accept queued given m = s.halt .duplicate) ∨
    (s.mismatched m = true ∧ s.accept queued given m = s.halt .mismatch) ∨
    (s.duplicate m = false ∧ s.mismatched m = false ∧
      s.accept queued given m =
        ((((s.heard queued (s.boundaryOf given) m).acceptDecision (s.boundaryOf given) m).ownEnd s.line.attempt)).settleSlots) := by
  unfold State.accept
  by_cases dup : s.duplicate m = true
  · exact .inl ⟨dup, by rw [if_pos dup]⟩
  · by_cases mis : s.mismatched m = true
    · exact .inr (.inl ⟨mis, by rw [if_neg dup, if_pos mis]⟩)
    · refine .inr (.inr ⟨by simpa using dup, by simpa using mis, ?_⟩)
      rw [if_neg dup, if_neg mis]
      unfold State.ownEnd State.heard
      cases s.line.attempt <;> rfl

@[simp] theorem heard_loader (s : State) (queued boundary : Bool) (m : Message) :
    (s.heard queued boundary m).loader = s.loader := by simp [State.heard]
@[simp] theorem heard_cfg (s : State) (queued boundary : Bool) (m : Message) :
    (s.heard queued boundary m).cfg = s.cfg := by simp [State.heard]
@[simp] theorem heard_engine (s : State) (queued boundary : Bool) (m : Message) :
    (s.heard queued boundary m).engine = s.engine := by simp [State.heard]
@[simp] theorem heard_chans (s : State) (queued boundary : Bool) (m : Message) :
    (s.heard queued boundary m).chans = s.chans := by simp [State.heard]
@[simp] theorem heard_out (s : State) (queued boundary : Bool) (m : Message) :
    (s.heard queued boundary m).out = s.out := by simp [State.heard]
@[simp] theorem heard_touch (s : State) (queued boundary : Bool) (m : Message) :
    (s.heard queued boundary m).touch = s.touch := by simp [State.heard]

/-- R58: of the controller an acceptance itself changes the silence counter of the source. -/
@[simp] theorem heard_ctl (s : State) (queued boundary : Bool) (m : Message) :
    (s.heard queued boundary m).ctl = s.ctl.heardFrom m.source := by
  simp only [State.heard, State.acceptPeriod_ctl, State.acceptMarks, State.acceptQueue_ctl]
  rfl

/-- R31, R53, R55, R59: what an acceptance leaves of the line interface, but for the slots and a restart that waits. -/
theorem heard_line (s : State) (queued boundary : Bool) (m : Message) :
    (s.heard queued boundary m).line =
      { s.line with
        idle := false, attempt := none
        inbound := if queued then s.line.inbound ++ [s.recordOf boundary m] else s.line.inbound
        lastE := newLastE s.line.lastE m.payload, runOwner := newRunOwner s.line.runOwner m.lock m.source } := by
  cases queued
  · simp [State.heard, State.acceptMarks, State.acceptQueue]
  · simp [State.heard, State.acceptMarks, State.acceptQueue]
    rfl

/-- R27: the timer after an acceptance: the period number adopted, or as it was. -/
theorem heard_timer (s : State) (queued boundary : Bool) (m : Message) :
    (s.heard queued boundary m).timer =
      if s.ctl.station.adopts && !boundary && m.source != s.own then
        match m.payload.period? with
        | some p => { s.timer with period := p, adoptionWait := 0 }
        | none => s.timer
      else s.timer := by
  have base : ((({ s with line := { s.line with idle := false, attempt := none } } : State).acceptQueue queued boundary
      m).acceptMarks m).timer = s.timer := by simp
  have station : ((({ s with line := { s.line with idle := false, attempt := none } } : State).acceptQueue queued boundary
      m).acceptMarks m).ctl.station = s.ctl.station := by cases queued <;> rfl
  have own : ((({ s with line := { s.line with idle := false, attempt := none } } : State).acceptQueue queued boundary
      m).acceptMarks m).own = s.own := by cases queued <;> rfl
  unfold State.heard State.acceptPeriod
  rw [station, own]
  split
  · cases m.payload.period? with
    | none => exact base
    | some p => simp
  · exact base

/-- What the station controller decides at an acceptance (R112 to R116). -/
inductive Decided (s : State) : State → Prop
  | stands : Decided s s
  | receives (source : Nat) (f : DumpOpen) (joining : s.ctl.station = .joinWait ∨ s.ctl.station = .foundSend) :
      Decided s (s.enterDumpReceive source f)
  | returns (joining : s.ctl.station = .joinWait ∨ s.ctl.station = .foundSend) : Decided s s.returnToJoinSend
  | fails (receiving : s.ctl.station = .dumpReceive) : Decided s s.failDump
  | closes {b : DumpBuild} (receiving : s.ctl.station = .dumpReceive) (build : s.engine.build = some b) :
      Decided s { s with engine := { s.engine with build := some { b with closing := true } } }

theorem acceptDecision_decided (s : State) (boundary : Bool) (m : Message) : Decided s (s.acceptDecision boundary m) := by
  unfold State.acceptDecision
  split
  case h_1 station =>
    split
    · exact .stands
    · split
      · split
        · exact .stands
        · exact .receives _ _ (.inl station)
      · exact .returns (.inl station)
      · exact .stands
  case h_2 station =>
    split
    · exact .stands
    · split
      · split
        · exact .returns (.inr station)
        · exact .receives _ _ (.inr station)
      · exact .returns (.inr station)
      · exact .stands
  case h_3 station =>
    split
    · exact .stands
    next b build =>
      split
      · exact .stands
      · split
        · exact .fails station
        · split
          · exact .closes station build
          · exact .stands
  all_goals exact .stands

/-- R104: the attempt count of the slot back at 0. -/
def State.counted (s : State) (id : SlotId) : State :=
  { s with line := { s.line with slots := s.line.slots.setCtl id { s.line.slots.ctl id with attempts := 0 } } }

/-- What an accepted message of its own hands on, the attempt count being 0 (R104). -/
inductive SlotDone (s : State) (a : Attempt) : State → Prop
  | stands : SlotDone s a s
  | joins (slot : a.slot = .joinFound) (station : s.ctl.station = .joinSend) : SlotDone s a s.enterJoinWait
  | founds {p : Byte} {d : Word16} (slot : a.slot = .joinFound) (station : s.ctl.station = .foundSend)
      (payload : a.message.payload = .found p d) : SlotDone s a (s.found p)
  | dumps (slot : a.slot = .dump) (run : Option DumpRun) :
      SlotDone s a { s with line := { s.line with slots := { s.line.slots with dumpRun := run } } }
  | reloads (slot : a.slot = .presence) : SlotDone s a s.reloadPresence
  | reports (slot : a.slot = .report) :
      SlotDone s a
        { s with
          line := { s.line with
            slots := { s.line.slots with reportHolds := s.line.slots.reportFollowOn, reportFollowOn := none } } }
  | levels {k : Num4} (slot : a.slot = .level k) :
      SlotDone s a
        { s with
          line := { s.line with
            slots := { s.line.slots with
              level := s.line.slots.level.set k (s.line.slots.level.get k).takeFollowOn } } }

theorem slotAccepted_done (s : State) (a : Attempt) : SlotDone (s.counted a.slot) a (s.slotAccepted a) := by
  unfold State.slotAccepted
  dsimp only
  split
  next slot =>
    split
    · next station => exact .joins slot station
    · next payload station => exact .founds slot station payload
    · exact slot ▸ .stands
  next slot =>
    split
    · exact .dumps slot _
    · exact .dumps slot _
    · exact slot ▸ .stands
  next slot => exact .stands
  next slot => exact .stands
  next slot => exact .reloads slot
  next slot => exact .reports slot
  next k slot => exact .levels slot

/-! ## The end of an attempt that is not accepted -/

/-- R102: an attempt that has ended, before its outcome. -/
def State.ended (s : State) : State := { s with line := { s.line with attempt := none, idle := false } }

/-- R57, R106: the line interface restarted. -/
def State.lineRestarted (s : State) : State := { s with line := s.line.restarted }

theorem attemptFailed_cases (s : State) (hold : Bool) :
    (s.line.attempt = none ∧ s.attemptFailed hold = s) ∨
    ∃ a, s.line.attempt = some a ∧
      ((s.line.restartPending = true ∧ s.attemptFailed hold = s.ended.lineRestarted) ∨
        (s.line.restartPending = false ∧ s.attemptFailed hold = (s.ended.failSlot a.slot hold).settleSlots)) := by
  unfold State.attemptFailed
  cases ha : s.line.attempt with
  | none => exact .inl ⟨rfl, rfl⟩
  | some a =>
    refine .inr ⟨a, rfl, ?_⟩
    by_cases hr : s.line.restartPending = true
    · exact .inl ⟨hr, if_pos hr⟩
    · exact .inr ⟨by simpa using hr, if_neg hr⟩

theorem attemptLost_cases (s : State) :
    (s.line.attempt = none ∧ s.attemptLost = s) ∨
    ∃ a, s.line.attempt = some a ∧
      ((s.line.restartPending = true ∧ s.attemptLost = s.ended.lineRestarted) ∨
        (s.line.restartPending = false ∧
          s.attemptLost =
            { s.ended with line := { s.ended.line with slots := s.line.slots.mergeFollowOn a.slot } })) := by
  unfold State.attemptLost
  cases ha : s.line.attempt with
  | none => exact .inl ⟨rfl, rfl⟩
  | some a =>
    refine .inr ⟨a, rfl, ?_⟩
    by_cases hr : s.line.restartPending = true
    · exact .inl ⟨hr, if_pos hr⟩
    · exact .inr ⟨by simpa using hr, if_neg hr⟩

/-! ## The channels under each effect -/

theorem ownEnd_chansMove (s : State) (o : Option Attempt) : ChansMove s (s.ownEnd o) := by
  cases o with
  | none => exact .refl s
  | some a =>
    simp only [State.ownEnd, State.acceptOwn]
    split
    · exact .of_eq rfl rfl
    · refine .trans (t := s.counted a.slot) (.of_eq rfl rfl) ?_
      have done := slotAccepted_done s a
      generalize s.slotAccepted a = t at done ⊢
      cases done with
      | founds => exact found_chansMove _ _
      | _ => exact .of_eq rfl rfl

theorem accept_chansMove (s : State) (queued given : Bool) (m : Message) : ChansMove s (s.accept queued given m) := by
  rcases accept_cases s queued given m with ⟨-, eq⟩ | ⟨-, eq⟩ | ⟨-, -, eq⟩ <;> rw [eq]
  · exact halt_chansMove s _
  · exact halt_chansMove s _
  · have decided : ChansMove s ((s.heard queued (s.boundaryOf given) m).acceptDecision (s.boundaryOf given) m) :=
      .of_eq (by simp) (by simp)
    exact (decided.trans (ownEnd_chansMove _ _)).trans (.of_eq rfl rfl)

theorem installDump_chansMove (s : State) (b : DumpBuild) : ChansMove s (s.installDump b) := by
  unfold State.installDump
  exact .trans (.of_eq (by simp) (by simp)) (enterRun_chansMove _)

theorem setScene_chansMove {s : State} {x : Cursor × Four Channel}
    (h : ∀ n, Channel.Moves s.cfg.placeable (s.chans.get n) (x.2.get n)) : ChansMove s (s.setScene x) := ⟨rfl, h⟩

theorem applied_chansMove {s t : State} {r : Record} (h : Applied s r t) : ChansMove s t := by
  cases h with
  | far => exact warmRestart_chansMove s
  | place => exact commit_chansMove (handOutcomes_chansMove _) _ _ _ _
  | @join e d kind near =>
    by_cases match_ : d = s.loader.digest
    · rw [applyJoinRecord_match match_]
      exact commit_chansMove .refl s e (s.engine.replica.joined r.source) (s.joinTouched r.source)
    · rw [applyJoinRecord_mismatch match_]
      exact .of_eq (by simp) (by simp)
  | @evict e ps kind near =>
    cases self : (evictPairs s.own s.engine.replica ps).2
    · rw [applyEvictRecord_others self]
      exact .trans (.of_eq rfl rfl) (commit_chansMove .refl _ _ _ _)
    · rw [applyEvictRecord_self self]
      exact warmRestart_chansMove s
  | shed => exact commit_chansMove (handSheds_chansMove _) _ _ _ _
  | dumpOpen => exact .of_eq rfl rfl
  | dumpPart =>
    unfold State.applyDumpPartRecord
    split
    · exact .refl s
    · dsimp only
      split
      · split
        · exact installDump_chansMove _ _
        · exact .of_eq (by simp) (by simp)
      · exact .of_eq rfl rfl
  | presence =>
    unfold State.applyPresenceRecord
    split
    · exact .refl s
    · split
      · exact .of_eq rfl rfl
      · dsimp only
        split
        · exact .trans (.of_eq rfl rfl) (warmRestart_chansMove _)
        · exact .of_eq rfl rfl
  | level => exact operateMask_chansMove rfl rfl
  | scene => exact setScene_chansMove (sceneStart_moves _ _ _ _ _ _ _)
  | sceneMore => exact setScene_chansMove (sceneContinue_moves _ _ _ _ _ _)
  | query => exact .of_eq rfl rfl

theorem withAttempt_frame (s : State) (a : Option Attempt) :
    s.withAttempt a = { s with line := (s.withAttempt a).line } := by cases a <;> rfl

theorem tryBuilds_chansMove (n : Nat) (ids : List SlotId) (s : State) : ChansMove s (State.tryBuilds n ids s) := by
  obtain ⟨cs, f, a, eq, moves, -⟩ := tryBuilds_eq n ids s
  rw [eq, withAttempt_frame]
  exact ⟨rfl, moves⟩

/-- Every effect but a cold reset, the end of LOADING and a sense sample moves the channels. -/
theorem effect_chans {c : Instr} {s t : State} (h : Effect c s t) :
    (∃ n cause, (∃ x, c = .coldReset x) ∧ t = ({ s with freeIndex := n } : State).coldReset cause) ∨
    (∃ image, (∃ memory, c = .configurationReadComplete memory) ∧ s.ctl.station = .loading ∧ imageValid image = true ∧
      t = s.configure image) ∨
    (∃ n high, t = s.sample n high) ∨ ChansMove s t := by
  cases h with
  | coldReset n cause reset => exact .inl ⟨n, cause, reset, rfl⟩
  | configured read loading reading valid => exact .inr (.inl ⟨_, read, loading, valid, rfl⟩)
  | sampled n high driven => exact .inr (.inr (.inl ⟨n, high, rfl⟩))
  | strapsRefused => exact .inr (.inr (.inr (halt_chansMove _ _)))
  | imageRefused => exact .inr (.inr (.inr (halt_chansMove _ _)))
  | attemptDuplicate => exact .inr (.inr (.inr (halt_chansMove s _)))
  | periodStart pull => exact .inr (.inr (.inr (periodStart_chansMove s pull)))
  | attemptStart =>
    exact .inr (.inr (.inr ((tryBuilds_chansMove _ _ s).trans (.of_eq rfl rfl))))
  | accepted => exact .inr (.inr (.inr (accept_chansMove s _ _ _)))
  | applied head record =>
    exact .inr (.inr (.inr ((applied_chansMove record).trans (.of_eq rfl rfl))))
  | measuredToggle key v =>
    exact .inr (.inr (.inr (.trans (.of_eq rfl rfl) (keyOperation_chansMove _ _ _ _))))
  | _ => exact .inr (.inr (.inr (.of_eq (by simp [State.lineAtRest, State.measured]) (by simp [State.lineAtRest, State.measured]))))

end Sys2Proof.Machine

/-! The touch key unit and the output stage under each effect, and the invariants that rest on them and on the channels alone. -/

namespace Sys2Proof.Machine

/-! ## The two effects that write a configuration -/

/-- The effect of a cold reset. -/
abbrev ColdResets (c : Instr) (s t : State) : Prop :=
  ∃ n cause, (∃ x, c = .coldReset x) ∧ t = ({ s with freeIndex := n } : State).coldReset cause

/-- The effect of a configuration read that gives an image the node takes. -/
abbrev Configures (c : Instr) (s t : State) : Prop :=
  ∃ image, (∃ memory, c = .configurationReadComplete memory) ∧ s.ctl.station = .loading ∧ t = s.configure image

/-! ## The keys -/

/-- What an event between two cold resets makes of a key record: its configuration stands, and so do its ranges. -/
def Key.Follows (k k' : Key) : Prop := (KeyLaw k → KeyLaw k') ∧ k'.config = k.config

/-- Every key record has followed, and hold time and step size stand. -/
def KeysFollow (s t : State) : Prop :=
  t.touch.holdTime = s.touch.holdTime ∧ t.touch.stepSize = s.touch.stepSize ∧
    ∀ n, (s.touch.key.get n).Follows (t.touch.key.get n)

theorem KeysFollow.of_scan {s t : State} {scan : Option Num4} (h : t.touch = { s.touch with scan := scan }) :
    KeysFollow s t := by
  rw [KeysFollow, h]
  exact ⟨rfl, rfl, fun _ => ⟨id, rfl⟩⟩

theorem KeysFollow.of_eq {s t : State} (h : t.touch = s.touch) : KeysFollow s t := .of_scan (scan := s.touch.scan) h

theorem KeysFollow.trans {s t u : State} (h : KeysFollow s t) (g : KeysFollow t u) : KeysFollow s u :=
  ⟨g.1.trans h.1, g.2.1.trans h.2.1, fun n => ⟨(g.2.2 n).1 ∘ (h.2.2 n).1, (g.2.2 n).2.trans (h.2.2 n).2⟩⟩

theorem periodStart_keysFollow (s : State) (pull : Bool) : KeysFollow s (s.periodStart pull) := by
  have touch : (s.timerStarted pull).outputPeriodStart.touch = s.touch := by simp [State.timerStarted]
  have keys : (s.periodStart pull).touch.key = s.touch.key.map fun k => (k.atPeriodStart s.touch.holdTime).1 := by
    rw [periodStart_touch, State.touchPeriodStart, beginRound_touch, keySteps_touch, touch]
  have rest : (s.periodStart pull).touch.holdTime = s.touch.holdTime ∧
      (s.periodStart pull).touch.stepSize = s.touch.stepSize := by
    rw [periodStart_touch, State.touchPeriodStart, beginRound_touch, keySteps_touch, touch]
    exact ⟨rfl, rfl⟩
  refine ⟨rest.1, rest.2, fun n => ?_⟩
  rw [keys, Four.get_map]
  exact ⟨atPeriodStart_law, atPeriodStart_config _ _⟩

theorem measured_keysFollow (s : State) (key : Num4) (v : BitVec 12) : KeysFollow s (s.measured key v.toNat) := by
  refine ⟨rfl, rfl, fun n => ?_⟩
  simp only [State.measured, Four.get_set]
  split
  · next eq => exact eq ▸ ⟨measure_law (by omega), measure_config _ _⟩
  · exact ⟨id, rfl⟩

theorem sample_touch (s : State) (n : Num4) (high : Bool) : (s.sample n high).touch = s.touch := by
  unfold State.sample
  dsimp only
  repeat' split
  all_goals simp

theorem accept_keysFollow (s : State) (queued given : Bool) (m : Message) : KeysFollow s (s.accept queued given m) := by
  rcases accept_cases s queued given m with ⟨-, eq⟩ | ⟨-, eq⟩ | ⟨-, -, eq⟩ <;> rw [eq]
  · exact .of_scan rfl
  · exact .of_scan rfl
  · refine .of_eq ?_
    cases s.line.attempt <;> simp [State.ownEnd]

theorem applied_touch {s t : State} {r : Record} (h : Applied s r t) : t.touch = s.touch := by
  cases h with
  | @join e d =>
    by_cases match_ : d = s.loader.digest
    · rw [applyJoinRecord_match match_, oweDump_touch, joined_touch]
    · rw [applyJoinRecord_mismatch match_, oweDump_touch, State.blankIfOverdue_touch]
  | @evict e ps =>
    cases self : (evictPairs s.own s.engine.replica ps).2
    · rw [applyEvictRecord_others self, commit_touch (f := id) (fun _ => rfl), pruned_touch]
    · rw [applyEvictRecord_self self, State.warmRestart_touch]
  | dumpPart =>
    unfold State.applyDumpPartRecord
    dsimp only
    repeat' split
    all_goals simp
  | presence =>
    unfold State.applyPresenceRecord
    dsimp only
    repeat' split
    all_goals simp
  | _ => simp

/-- Between cold resets and the end of LOADING every key record follows. -/
theorem effect_keys {c : Instr} {s t : State} (h : Effect c s t) :
    ColdResets c s t ∨
    Configures c s t ∨ KeysFollow s t := by
  cases h with
  | coldReset n cause reset => exact .inl ⟨n, cause, reset, rfl⟩
  | configured read loading reading valid => exact .inr (.inl ⟨_, read, loading, rfl⟩)
  | strapsRefused => exact .inr (.inr (.of_scan rfl))
  | imageRefused => exact .inr (.inr (.of_scan rfl))
  | attemptDuplicate => exact .inr (.inr (.of_scan rfl))
  | periodStart pull => exact .inr (.inr (periodStart_keysFollow s pull))
  | attemptStart =>
    obtain ⟨cs, f, a, eq, -, -⟩ := tryBuilds_eq allSlots.length (allSlots.filter s.ready) s
    rw [eq, withAttempt_frame]
    exact .inr (.inr (.of_eq rfl))
  | accepted => exact .inr (.inr (accept_keysFollow s _ _ _))
  | applied head record => exact .inr (.inr (.of_eq ((State.dropHead_touch _).trans (applied_touch record))))
  | measured key v => exact .inr (.inr (measured_keysFollow s key v))
  | measuredToggle key v =>
    exact .inr (.inr ((measured_keysFollow s key v).trans (.of_eq (State.keyOperation_touch _ _ _ _))))
  | sampled n high => exact .inr (.inr (.of_eq (sample_touch s n high)))
  | _ => exact .inr (.inr (.of_eq (by simp [State.lineAtRest])))

/-! ## The outputs -/

/-- What an event other than a period start and an OPEN report makes of an output channel: configuration and fault hold flag stand,
and the placement stands or goes. -/
def OutsKeep (s t : State) : Prop :=
  t.out.configured = s.out.configured ∧
    ∀ n, (t.out.chan.get n).config = (s.out.chan.get n).config ∧
      (t.out.chan.get n).faultHold = (s.out.chan.get n).faultHold ∧
      ((t.out.chan.get n).plan = (s.out.chan.get n).plan ∨ (t.out.chan.get n).plan = none)

theorem OutsKeep.of_chan {s t : State} (configured : t.out.configured = s.out.configured)
    (chan : t.out.chan = s.out.chan) : OutsKeep s t := by
  rw [OutsKeep, chan]
  exact ⟨configured, fun _ => ⟨rfl, rfl, .inl rfl⟩⟩

theorem OutsKeep.of_eq {s t : State} (h : t.out = s.out) : OutsKeep s t := .of_chan (by rw [h]) (by rw [h])

theorem OutsKeep.congr {s t u : State} (h : OutsKeep s t) (out : u.out = t.out) : OutsKeep s u := by
  rw [OutsKeep, out]
  exact h

theorem OutsKeep.of_emptied {s t : State} (h : t.out = s.out.emptied) : OutsKeep s t := by
  rw [OutsKeep, h]
  refine ⟨rfl, fun n => ?_⟩
  rw [emptied_out_get]
  exact ⟨rfl, rfl, .inr rfl⟩

theorem warmRestart_out (s : State) : s.warmRestart.out = s.out.emptied := by
  unfold State.warmRestart
  dsimp only
  split <;> rfl

theorem recorded_out_chan (s : State) (e : Byte) (r : Replica) (touched : List Num4) :
    (s.recorded e r touched).out.chan = s.out.chan ∧ (s.recorded e r touched).out.configured = s.out.configured := by
  simp only [State.recorded, State.blankIfOverdue]
  split <;> exact ⟨rfl, rfl⟩

theorem commit_outsKeep {f : State → State} (hf : ∀ s, (f s).out = s.out) (s : State) (e : Byte) (r : Replica)
    (touched : List Num4) : OutsKeep s (s.commit e r touched f) :=
  .of_chan (by rw [commit_out hf, (recorded_out_chan s e r touched).2])
    (by rw [commit_out hf, (recorded_out_chan s e r touched).1])

theorem accept_out (s : State) (queued given : Bool) (m : Message) :
    (s.accept queued given m).out = s.out ∨
      ((s.accept queued given m).out = s.out.emptied ∧ (s.accept queued given m).ctl.station = .halted) := by
  rcases accept_cases s queued given m with ⟨-, eq⟩ | ⟨-, eq⟩ | ⟨-, -, eq⟩ <;> rw [eq]
  · exact .inr ⟨rfl, rfl⟩
  · exact .inr ⟨rfl, rfl⟩
  · refine .inl ?_
    cases s.line.attempt <;> simp [State.ownEnd]

theorem installDump_out (s : State) (b : DumpBuild) :
    (s.installDump b).out.chan = s.out.chan ∧ (s.installDump b).out.configured = s.out.configured ∧
      (s.installDump b).out.blank = s.out.blank := ⟨rfl, rfl, rfl⟩

theorem applied_outsKeep {s t : State} {r : Record} (h : Applied s r t) : OutsKeep s t := by
  cases h with
  | far => exact .of_emptied (warmRestart_out s)
  | place => exact commit_outsKeep (handOutcomes_out _) _ _ _ _
  | @join e d =>
    by_cases match_ : d = s.loader.digest
    · rw [applyJoinRecord_match match_]
      exact commit_outsKeep (fun _ => rfl) s e (s.engine.replica.joined r.source) (s.joinTouched r.source)
    · rw [applyJoinRecord_mismatch match_]
      unfold State.blankIfOverdue
      split <;> exact .of_chan rfl rfl
  | @evict e ps =>
    cases self : (evictPairs s.own s.engine.replica ps).2
    · rw [applyEvictRecord_others self]
      exact commit_outsKeep (fun _ => rfl) (s.pruned _) _ _ _
    · rw [applyEvictRecord_self self]
      exact .of_emptied (warmRestart_out s)
  | shed => exact commit_outsKeep (handSheds_out _) _ _ _ _
  | dumpPart =>
    unfold State.applyDumpPartRecord
    dsimp only
    repeat' split
    all_goals exact .of_chan rfl rfl
  | presence =>
    unfold State.applyPresenceRecord
    dsimp only
    repeat' split
    · exact .of_chan rfl rfl
    · exact .of_chan rfl rfl
    · exact .of_emptied (warmRestart_out _)
    · exact .of_chan rfl rfl
  | _ => exact .of_eq (by simp)

/-- Every effect but a cold reset, the end of LOADING, a period start and a sense sample keeps the outputs. -/
theorem effect_outs {c : Instr} {s t : State} (h : Effect c s t) :
    ColdResets c s t ∨
    Configures c s t ∨ (∃ pull, t = s.periodStart pull) ∨
    (∃ n high, t = s.sample n high) ∨ OutsKeep s t := by
  cases h with
  | coldReset n cause reset => exact .inl ⟨n, cause, reset, rfl⟩
  | configured read loading reading valid => exact .inr (.inl ⟨_, read, loading, rfl⟩)
  | periodStart pull => exact .inr (.inr (.inl ⟨pull, rfl⟩))
  | sampled n high => exact .inr (.inr (.inr (.inl ⟨n, high, rfl⟩)))
  | strapsRefused => exact .inr (.inr (.inr (.inr (.of_emptied rfl))))
  | imageRefused => exact .inr (.inr (.inr (.inr (.of_emptied rfl))))
  | attemptDuplicate => exact .inr (.inr (.inr (.inr (.of_emptied rfl))))
  | attemptStart =>
    obtain ⟨cs, f, a, eq, -, -⟩ := tryBuilds_eq allSlots.length (allSlots.filter s.ready) s
    rw [eq, withAttempt_frame]
    exact .inr (.inr (.inr (.inr (.of_eq rfl))))
  | accepted =>
    refine .inr (.inr (.inr (.inr ?_)))
    rcases accept_out s _ _ _ with eq | ⟨eq, -⟩
    · exact .of_eq eq
    · exact .of_emptied eq
  | applied head record =>
    exact .inr (.inr (.inr (.inr ((applied_outsKeep record).congr (State.dropHead_out _)))))
  | _ => exact .inr (.inr (.inr (.inr (.of_eq (by simp [State.lineAtRest, State.measured])))))

/-! ## The output stage at a period start -/

/-- R37: entries applied to other channels leave a channel's record alone. -/
theorem applyPending_other {x : PendingChange} {n : Num4} (h : x.channel ≠ n) (o : Four OutChannel) :
    (applyPending o x).get n = o.get n := by
  simp only [applyPending, Four.get_set, if_neg (Ne.symm h)]

/-- R37: what an entry leaves of its own channel's record. -/
theorem applyPending_own (o : Four OutChannel) (x : PendingChange) :
    (applyPending o x).get x.channel =
      { o.get x.channel with
        plan := x.placement
        lowCount := if x.placement = (o.get x.channel).plan then (o.get x.channel).lowCount else 0 } := by
  simp only [applyPending, Four.get_set, if_true]

/-- R37: an entry changes placement and low count of a record alone. -/
theorem applyPending_keeps (o : Four OutChannel) (x : PendingChange) (n : Num4) :
    ((applyPending o x).get n).config = (o.get n).config ∧ ((applyPending o x).get n).faultHold = (o.get n).faultHold := by
  by_cases eq : x.channel = n
  · subst eq
    rw [applyPending_own]
    exact ⟨rfl, rfl⟩
  · rw [applyPending_other eq]
    exact ⟨rfl, rfl⟩

theorem applyPendings_keeps (xs : List PendingChange) (o : Four OutChannel) (n : Num4) :
    ((xs.foldl applyPending o).get n).config = (o.get n).config ∧
      ((xs.foldl applyPending o).get n).faultHold = (o.get n).faultHold :=
  foldl_related (f := applyPending)
    (R := fun o o' : Four OutChannel =>
      (o'.get n).config = (o.get n).config ∧ (o'.get n).faultHold = (o.get n).faultHold)
    (fun _ => ⟨rfl, rfl⟩) (fun _ _ _ h g => ⟨g.1.trans h.1, g.2.trans h.2⟩) (fun o x => applyPending_keeps o x n) xs o

/-- R37: entries for other channels alone leave a channel's record as it was. -/
theorem applyPendings_other {xs : List PendingChange} {n : Num4} (h : ∀ x ∈ xs, x.channel ≠ n) (o : Four OutChannel) :
    (xs.foldl applyPending o).get n = o.get n := by
  induction xs generalizing o with
  | nil => rfl
  | cons x xs ih =>
    rw [List.foldl_cons, ih (fun y hy => h y (List.mem_cons_of_mem _ hy)), applyPending_other (h x List.mem_cons_self)]

theorem clearHolds_get (chans : Four Channel) (o : OutputStage) (n : Num4) :
    (o.clearHolds chans).chan.get n =
      if (chans.get n).state = .faulted then o.chan.get n else { o.chan.get n with faultHold := false } := by
  simp [OutputStage.clearHolds]

/-- R25: the output stage after a period start. -/
theorem periodStart_out_eq (s : State) (pull : Bool) :
    (s.periodStart pull).out =
      (if s.ctl.station = .run then
        s.out.periodStart (s.timer.period + 1) (lateAt (s.timer.period + 1) s.line.inbound) else s.out).clearHolds
        s.chans := by
  rw [periodStart_out]
  rfl

/-- A period start leaves the configuration of each output, and the fault hold flag of a FAULTED channel. -/
theorem periodStart_outs (s : State) (pull : Bool) (n : Num4) :
    ((s.periodStart pull).out.chan.get n).config = (s.out.chan.get n).config ∧
      ((s.periodStart pull).out.chan.get n).faultHold =
        if (s.chans.get n).state = .faulted then (s.out.chan.get n).faultHold else false := by
  have before : ∀ o : OutputStage,
      (o = s.out ∨ o = s.out.periodStart (s.timer.period + 1) (lateAt (s.timer.period + 1) s.line.inbound)) →
      (o.chan.get n).config = (s.out.chan.get n).config ∧ (o.chan.get n).faultHold = (s.out.chan.get n).faultHold := by
    rintro o (rfl | rfl)
    · exact ⟨rfl, rfl⟩
    · exact applyPendings_keeps _ _ n
  have kept := before (if s.ctl.station = .run then
        s.out.periodStart (s.timer.period + 1) (lateAt (s.timer.period + 1) s.line.inbound) else s.out)
    (by split <;> simp)
  rw [periodStart_out_eq, clearHolds_get]
  by_cases faulted : (s.chans.get n).state = .faulted
  · simp only [if_pos faulted]
    exact kept
  · simp only [if_neg faulted]
    exact ⟨kept.1, trivial⟩

/-! ## A sense sample -/

/-- R156, R157: a driven sample sets the low count, or reports the channel OPEN. -/
theorem sample_cases (s : State) (n : Num4) (high : Bool) :
    (∃ count, s.sample n high = s.setLowCount n count) ∨
      (high = false ∧ 3 ≤ (s.out.chan.get n).lowCount ∧ s.sample n high = (s.reportOpen n).settleSlots) := by
  unfold State.sample
  cases high with
  | true => exact .inl ⟨0, rfl⟩
  | false =>
    by_cases below : (s.out.chan.get n).lowCount < 3
    · exact .inl ⟨_, by simp only [Bool.false_eq_true, if_false, if_pos below]; rfl⟩
    · exact .inr ⟨rfl, by omega, by simp only [Bool.false_eq_true, if_false, if_neg below]⟩

theorem setLowCount_outsKeep (s : State) (n : Num4) (count : Nat) : OutsKeep s (s.setLowCount n count) := by
  refine ⟨rfl, fun j => ?_⟩
  simp only [State.setLowCount, Four.get_set]
  split
  · next eq => exact eq ▸ ⟨rfl, rfl, .inl rfl⟩
  · exact ⟨rfl, rfl, .inl rfl⟩

theorem reportOpen_chans (s : State) (n : Num4) :
    (s.reportOpen n).chans = s.chans.set n ((s.chans.get n).opened (s.holdsEntry n)) := rfl

theorem reportOpen_out_get (s : State) (n j : Num4) :
    (s.reportOpen n).out.chan.get j =
      if j = n then
        { s.out.chan.get n with
          lowCount := 0, faultHold := (s.out.chan.get n).faultHold || decide ((s.chans.get n).state ≠ .unused) }
      else s.out.chan.get j := by
  simp only [State.reportOpen, Four.get_set]

/-! ## O57: the keys -/

theorem key_untaken_law : KeyLaw Key.untaken := by
  simp [KeyLaw, Key.untaken, Key.held]

theorem key_fromImage_law (image : List Byte) (n : Num4) : KeyLaw (Key.fromImage image n) := by
  simp [KeyLaw, Key.fromImage, Key.untaken]

/-- Settles O57: a key record follows, or takes the value of a cold reset or of the image. -/
theorem keysInRangeKept : Obligations.KeysInRangeKept := by
  intro s t
  refine step_keeps (P := KeysInRange) (fun _ _ h => h) ?_
  intro c s t law effect n
  rcases effect_keys effect with ⟨f, cause, -, rfl⟩ | ⟨image, -, -, rfl⟩ | ⟨-, -, follow⟩
  · show KeyLaw ((Four.replicate Key.untaken).get n)
    rw [Four.get_replicate]
    exact key_untaken_law
  · show KeyLaw ((Four.tabulate (Key.fromImage image)).get n)
    rw [Four.get_tabulate]
    exact key_fromImage_law image n
  · exact (follow n).1 (law n)

/-! ## O56: the fault hold flag -/

/-- A FAULTED channel that is held drives nothing (R154). -/
theorem outActive_faultHold {s : State} {n : Num4} (h : (s.out.chan.get n).faultHold = true) : s.outActive n = false := by
  simp [State.outActive, h]

theorem reset_chan (n : Num4) : State.reset.chans.get n = .untaken := Four.get_replicate _ n

theorem imageChannel_not_faulted (image : List Byte) (a : Nat) (n : Num4) :
    (imageChannel image a n).state ≠ .faulted := by
  simp only [imageChannel, Channel.fromImage]
  repeat' split
  all_goals simp

theorem reportOpen_faultHeld {s : State} (h : FaultHeld s) (n : Num4) : FaultHeld (s.reportOpen n) := by
  intro j faulted
  rw [reportOpen_chans, Four.get_set] at faulted
  rw [reportOpen_out_get]
  by_cases eq : j = n
  · subst eq
    rw [if_pos rfl] at faulted ⊢
    by_cases unused : (s.chans.get j).state = .unused
    · rw [Channel.opened, if_pos unused, unused] at faulted
      cases faulted
    · simp [unused]
  · rw [if_neg eq] at faulted ⊢
    exact h j faulted

theorem effect_faultHeld {c : Instr} {s t : State} (h : FaultHeld s) (effect : Effect c s t) : FaultHeld t := by
  have moved : ChansMove s t → ∀ n, (t.chans.get n).state = .faulted → (s.out.chan.get n).faultHold = true :=
    fun move n faulted => h n ((move.2 n).state.2 faulted)
  have channels := effect_chans effect
  rcases effect_outs effect with ⟨f, cause, -, rfl⟩ | ⟨image, -, -, rfl⟩ | ⟨pull, rfl⟩ | ⟨n, high, rfl⟩ | keeps
  · intro n faulted
    rw [show (State.coldReset _ cause).chans.get n = .untaken from reset_chan n] at faulted
    cases faulted
  · intro n faulted
    rw [show (s.configure image).chans.get n = imageChannel image _ n from Four.get_tabulate _ n] at faulted
    exact absurd faulted (imageChannel_not_faulted image _ n)
  · intro n faulted
    have before := ((periodStart_chansMove s pull).2 n).state.2 faulted
    rw [(periodStart_outs s pull n).2, if_pos before]
    exact h n before
  · rcases sample_cases s n high with ⟨count, eq⟩ | ⟨-, -, eq⟩ <;> rw [eq]
    · exact fun j faulted => ((setLowCount_outsKeep s n count).2 j).2.1 ▸ h j faulted
    · exact reportOpen_faultHeld h n
  · rcases channels with ⟨f, cause, -, rfl⟩ | ⟨image, -, -, -, rfl⟩ | ⟨n, high, rfl⟩ | move
    · intro n faulted
      rw [show (State.coldReset _ cause).chans.get n = .untaken from reset_chan n] at faulted
      cases faulted
    · intro n faulted
      rw [show (s.configure image).chans.get n = imageChannel image _ n from Four.get_tabulate _ n] at faulted
      exact absurd faulted (imageChannel_not_faulted image _ n)
    · rcases sample_cases s n high with ⟨count, eq⟩ | ⟨-, -, eq⟩ <;> rw [eq]
      · exact fun j faulted => ((setLowCount_outsKeep s n count).2 j).2.1 ▸ h j faulted
      · exact reportOpen_faultHeld h n
    · exact fun n faulted => (keeps.2 n).2.1 ▸ moved move n faulted

/-- Settles O56: no move makes a channel FAULTED, and an OPEN report sets the flag with the state. -/
theorem faultHeldKept : Obligations.FaultHeldKept :=
  ⟨fun _ _ => step_keeps (P := FaultHeld) (fun _ _ h => h) (fun _ _ _ h effect => effect_faultHeld h effect),
    fun _ n held faulted => outActive_faultHold (held n faulted)⟩

/-! ## O59: the configuration -/

theorem applied_loader {s t : State} {r : Record} (h : Applied s r t) : t.loader = s.loader := by
  cases h with
  | @join e d =>
    by_cases match_ : d = s.loader.digest
    · rw [applyJoinRecord_match match_, oweDump_loader, joined_loader]
    · rw [applyJoinRecord_mismatch match_, oweDump_loader, State.blankIfOverdue_loader]
  | @evict e ps =>
    cases self : (evictPairs s.own s.engine.replica ps).2
    · rw [applyEvictRecord_others self, commit_loader (f := id) (fun _ => rfl), pruned_loader]
    · rw [applyEvictRecord_self self, State.warmRestart_loader]
  | dumpPart =>
    unfold State.applyDumpPartRecord
    dsimp only
    repeat' split
    all_goals simp
  | presence =>
    unfold State.applyPresenceRecord
    dsimp only
    repeat' split
    all_goals simp
  | _ => simp

theorem sample_loader (s : State) (n : Num4) (high : Bool) : (s.sample n high).loader = s.loader := by
  rcases sample_cases s n high with ⟨count, eq⟩ | ⟨-, -, eq⟩ <;> rw [eq] <;> rfl

/-- The loader under each effect: taken anew by a cold reset and by LOADING, left as it was, or its read finished by a halt. -/
theorem effect_loader {c : Instr} {s t : State} (h : Effect c s t) :
    ColdResets c s t ∨
    Configures c s t ∨ s.ctl.station = .loading ∧ t.loader.digest = s.loader.digest ∨
    t.loader = s.loader ∨ (t.loader = { s.loader with phase := .finished } ∧ t.ctl.station = .halted) := by
  cases h with
  | coldReset n cause reset => exact .inl ⟨n, cause, reset, rfl⟩
  | configured read loading reading valid => exact .inr (.inl ⟨_, read, loading, rfl⟩)
  | strapsTaken loading => exact .inr (.inr (.inl ⟨loading, rfl⟩))
  | strapsRefused loading => exact .inr (.inr (.inl ⟨loading, rfl⟩))
  | imageRefused loading => exact .inr (.inr (.inl ⟨loading, rfl⟩))
  | attemptDuplicate => exact .inr (.inr (.inr (.inr ⟨rfl, rfl⟩)))
  | attemptStart =>
    obtain ⟨cs, f, a, eq, -, -⟩ := tryBuilds_eq allSlots.length (allSlots.filter s.ready) s
    rw [eq, withAttempt_frame]
    exact .inr (.inr (.inr (.inl rfl)))
  | @accepted m msg accepts =>
    refine .inr (.inr (.inr ?_))
    rcases accept_cases s (s.queues m msg) m.boundary msg with ⟨-, eq⟩ | ⟨-, eq⟩ | ⟨-, -, eq⟩ <;> rw [eq]
    · exact .inr ⟨rfl, rfl⟩
    · exact .inr ⟨rfl, rfl⟩
    · refine .inl ?_
      cases s.line.attempt <;> simp [State.ownEnd]
  | applied head record =>
    exact .inr (.inr (.inr (.inl ((State.dropHead_loader _).trans (applied_loader record)))))
  | sampled n high => exact .inr (.inr (.inr (.inl (sample_loader s n high))))
  | _ => exact .inr (.inr (.inr (.inl (by simp [State.lineAtRest, State.measured]))))

theorem sample_config (s : State) (n : Num4) (high : Bool) :
    (s.sample n high).cfg = s.cfg ∧ (s.sample n high).out.configured = s.out.configured ∧
      ∀ j, ((s.sample n high).chans.get j).config = (s.chans.get j).config ∧
        ((s.sample n high).out.chan.get j).config = (s.out.chan.get j).config := by
  rcases sample_cases s n high with ⟨count, eq⟩ | ⟨-, -, eq⟩ <;> rw [eq]
  · exact ⟨rfl, rfl, fun j => ⟨rfl, ((setLowCount_outsKeep s n count).2 j).1⟩⟩
  · refine ⟨rfl, rfl, fun j => ?_⟩
    rw [State.settleSlots_chans, State.settleSlots_out, reportOpen_chans, Four.get_set, reportOpen_out_get]
    by_cases same : j = n
    · subst same
      simp only [if_true]
      exact ⟨(channel_config (s.chans.get j) 0 0 .set (s.holdsEntry j) .noChange .noRoom).2.2.2.2.1, rfl⟩
    · simp only [if_neg same]
      exact ⟨trivial, trivial⟩

/-- Cold reset and the end of LOADING apart, an effect leaves the configuration (R178). -/
theorem effect_configuration {c : Instr} {s t : State} (h : Effect c s t) :
    ColdResets c s t ∨
    Configures c s t ∨ SameConfiguration s t := by
  rcases effect_keys h with reset | configured | ⟨holdTime, stepSize, keys⟩
  · exact .inl reset
  · exact .inr (.inl configured)
  have digest : ColdResets c s t ∨
      Configures c s t ∨ t.loader.digest = s.loader.digest := by
    rcases effect_loader h with reset | configured | ⟨-, eq⟩ | eq | ⟨eq, -⟩
    · exact .inl reset
    · exact .inr (.inl configured)
    · exact .inr (.inr eq)
    · exact .inr (.inr (by rw [eq]))
    · exact .inr (.inr (by rw [eq]))
  rcases digest with reset | configured | digest
  · exact .inl reset
  · exact .inr (.inl configured)
  rcases effect_chans h with reset | ⟨image, read, loading, -, eq⟩ | ⟨n, high, rfl⟩ | move
  · exact .inl reset
  · exact .inr (.inl ⟨image, read, loading, eq⟩)
  · obtain ⟨cfg, taken, config⟩ := sample_config s n high
    exact .inr (.inr ⟨cfg, digest, holdTime, stepSize, taken, fun j => ⟨(config j).1, (config j).2, (keys j).2⟩⟩)
  have same : t.out.configured = s.out.configured →
      (∀ j, (t.out.chan.get j).config = (s.out.chan.get j).config) → SameConfiguration s t := fun taken outs =>
    ⟨move.1, digest, holdTime, stepSize, taken, fun j => ⟨(move.2 j).config, outs j, (keys j).2⟩⟩
  rcases effect_outs h with reset | configured | ⟨pull, rfl⟩ | ⟨n, high, rfl⟩ | keeps
  · exact .inl reset
  · exact .inr (.inl configured)
  · refine .inr (.inr (same ?_ fun j => (periodStart_outs s pull j).1))
    rw [periodStart_out_eq]
    split <;> rfl
  · obtain ⟨-, taken, config⟩ := sample_config s n high
    exact .inr (.inr (same taken fun j => (config j).2))
  · exact .inr (.inr (same keeps.1 fun j => (keeps.2 j).1))

end Sys2Proof.Machine

/-! The line interface and the station state under each effect: which effects leave the station state and do no more than ease the
line interface, and which are left. -/

namespace Sys2Proof.Machine

/-! ## Slots and a line interface that do no more than ease -/

/-- No attempt count and no cooldown rises, and the JOIN/FOUND slot holds what it held. -/
def TxSlots.Eases (t t' : TxSlots) : Prop :=
  t'.joinFoundHolds = t.joinFoundHolds ∧ t'.cooldown ≤ t.cooldown ∧ ∀ id, (t'.ctl id).attempts ≤ (t.ctl id).attempts

theorem TxSlots.Eases.refl (t : TxSlots) : t.Eases t := ⟨rfl, le_rfl, fun _ => le_rfl⟩

theorem TxSlots.Eases.trans {t u v : TxSlots} (h : t.Eases u) (g : u.Eases v) : t.Eases v :=
  ⟨g.1.trans h.1, g.2.1.trans h.2.1, fun id => (g.2.2 id).trans (h.2.2 id)⟩

/-- One slot's count does not rise, and nothing else that counts changes. -/
theorem TxSlots.Eases.of_setCtl {t t' : TxSlots} {id : SlotId} {c : SlotCtl} (holds : t'.joinFoundHolds = t.joinFoundHolds)
    (cooldown : t'.cooldown ≤ t.cooldown) (ctl : ∀ j, t'.ctl j = if j = id then c else t.ctl j)
    (le : c.attempts ≤ (t.ctl id).attempts) : t.Eases t' := by
  refine ⟨holds, cooldown, fun j => ?_⟩
  rw [ctl j]
  split
  · next eq => exact eq ▸ le
  · exact le_rfl

theorem setCtl_holds (t : TxSlots) (id : SlotId) (c : SlotCtl) :
    (t.setCtl id c).joinFoundHolds = t.joinFoundHolds ∧ (t.setCtl id c).cooldown = t.cooldown := by
  cases id <;> exact ⟨rfl, rfl⟩

theorem setCtl_eases {t : TxSlots} {id : SlotId} {c : SlotCtl} (le : c.attempts ≤ (t.ctl id).attempts) :
    t.Eases (t.setCtl id c) :=
  .of_setCtl (setCtl_holds t id c).1 (setCtl_holds t id c).2.le (fun j => TxSlots.ctl_setCtl t id j c) le

/-- A LEVEL slot set to one whose count is no higher. -/
theorem setLevel_eases {t : TxSlots} {k : Num4} {l : LevelSlot} (le : l.ctl.attempts ≤ (t.level.get k).ctl.attempts) :
    t.Eases { t with level := t.level.set k l } := by
  refine .of_setCtl (id := .level k) (c := l.ctl) rfl le_rfl (fun j => ?_) le
  cases j with
  | level j =>
    simp only [TxSlots.ctl, Four.get_set, SlotId.level.injEq]
    split <;> rfl
  | _ => rfl

theorem settled_eases (s : State) (t : TxSlots) : t.Eases (s.settled t) := by
  refine ⟨rfl, le_rfl, fun id => ?_⟩
  cases id with
  | place => simp only [State.settled, TxSlots.ctl]; split <;> simp
  | evict => simp only [State.settled, TxSlots.ctl]; split <;> simp
  | _ => exact le_rfl

theorem merge_attempts (l : LevelSlot) (new : LevelRequest) : (l.merge new).ctl.attempts ≤ l.ctl.attempts := by
  simp only [LevelSlot.merge]
  split
  · exact le_rfl
  · exact Nat.zero_le _

theorem give_attempts (busy : Bool) (l : LevelSlot) (new : LevelRequest) :
    (l.give busy new).ctl.attempts ≤ l.ctl.attempts := by
  cases busy
  · exact merge_attempts l new
  · exact le_rfl

theorem levelMergeFollowOn_attempts (l : LevelSlot) : l.mergeFollowOn.ctl.attempts ≤ l.ctl.attempts := by
  unfold LevelSlot.mergeFollowOn
  split
  · exact merge_attempts _ _
  · exact le_rfl

theorem mergeFollowOn_eases (t : TxSlots) (id : SlotId) : t.Eases (t.mergeFollowOn id) := by
  cases id with
  | report =>
    simp only [TxSlots.mergeFollowOn]
    split
    · refine .of_setCtl (id := .report) (c := .clear) rfl le_rfl (fun j => ?_) (Nat.zero_le _)
      cases j <;> rfl
    · exact .refl t
  | level k => exact setLevel_eases (levelMergeFollowOn_attempts _)
  | _ => exact .refl t

theorem giveReport_eases (busy : Bool) (t : TxSlots) (q : ReportRequest) : t.Eases (t.giveReport busy q) := by
  cases busy
  · refine .of_setCtl (id := .report) (c := .clear) rfl le_rfl (fun j => ?_) (Nat.zero_le _)
    cases j <;> rfl
  · refine ⟨rfl, le_rfl, fun j => ?_⟩
    cases j <;> exact le_rfl

theorem cancelDump_eases (foreign : Bool) (t : TxSlots) : t.Eases (t.cancelDump foreign) := by
  unfold TxSlots.cancelDump
  split
  · refine .of_setCtl (id := .dump) (c := .clear) rfl le_rfl (fun j => ?_) (Nat.zero_le _)
    cases j <;> rfl
  · exact .refl t

/-- The attempt under way and a restart that waits for it stand, the queue loses records at most, and the slots ease. -/
def LineInterface.Eases (l l' : LineInterface) : Prop :=
  l'.attempt = l.attempt ∧ l'.restartPending = l.restartPending ∧ l'.inbound <:+ l.inbound ∧ l.slots.Eases l'.slots

theorem LineInterface.Eases.refl (l : LineInterface) : l.Eases l := ⟨rfl, rfl, List.suffix_rfl, .refl _⟩

theorem LineInterface.Eases.trans {l m n : LineInterface} (h : l.Eases m) (g : m.Eases n) : l.Eases n :=
  ⟨g.1.trans h.1, g.2.1.trans h.2.1, g.2.2.1.trans h.2.2.1, h.2.2.2.trans g.2.2.2⟩

/-- The station state stands and the line interface eases. -/
def Quiet (s t : State) : Prop := s.line.Eases t.line ∧ t.ctl.station = s.ctl.station

theorem Quiet.refl (s : State) : Quiet s s := ⟨.refl _, rfl⟩

theorem Quiet.trans {s t u : State} (h : Quiet s t) (g : Quiet t u) : Quiet s u := ⟨h.1.trans g.1, g.2.trans h.2⟩

theorem Quiet.of_eq {s t : State} (line : t.line = s.line) (ctl : t.ctl.station = s.ctl.station) : Quiet s t :=
  ⟨line ▸ .refl _, ctl⟩

theorem Quiet.of_slots {s t : State} (line : s.line.SameButSlots t.line) (slots : s.line.slots.Eases t.line.slots)
    (ctl : t.ctl.station = s.ctl.station) : Quiet s t := by
  refine ⟨?_, ctl⟩
  unfold LineInterface.Eases
  rw [line]
  exact ⟨rfl, rfl, List.suffix_rfl, slots⟩

theorem settleSlots_quiet (s : State) : Quiet s s.settleSlots := by
  rw [settleSlots_eq]
  exact .of_slots rfl (settled_eases s _) rfl

theorem dropHead_quiet (s : State) : Quiet s s.dropHead := by
  refine ⟨?_, by simp⟩
  rw [dropHead_line]
  exact ⟨rfl, rfl, List.tail_suffix _, .refl _⟩

theorem keyOperation_quiet (s : State) (k : Num4) (op : LevelOp) (v : Nat) : Quiet s (s.keyOperation k op v) := by
  by_cases own : (s.touch.key.get k).bound = s.own
  · rw [keyOperation_own op v own]
    exact .of_eq rfl rfl
  · rw [keyOperation_far op v own]
    exact .of_slots rfl (setLevel_eases (give_attempts _ _ _)) rfl

theorem commit_quiet {f : State → State} (line : ∀ s, (f s).line = s.line) (ctl : ∀ s, (f s).ctl = s.ctl) (s : State)
    (e : Byte) (r : Replica) (touched : List Num4) : Quiet s (s.commit e r touched f) := by
  refine ⟨?_, by rw [commit_ctl ctl]⟩
  rw [commit_line line]
  exact ⟨rfl, rfl, List.suffix_rfl, settled_eases _ _⟩

theorem sample_quiet (s : State) (n : Num4) (high : Bool) : Quiet s (s.sample n high) := by
  rcases sample_cases s n high with ⟨count, eq⟩ | ⟨-, -, eq⟩ <;> rw [eq]
  · exact .of_eq rfl rfl
  · exact .trans (.of_eq rfl rfl) (settleSlots_quiet _)

/-! ## What is left: the effects that are not quiet -/

/-- What the engine makes of a record that is not quiet: a warm restart, a failed dump, or a dump installed (R88, R124 to R126). -/
inductive AppliedLoud (s : State) (r : Record) : State → Prop
  | warmRestart (run : s.ctl.station = .run) : AppliedLoud s r s.warmRestart
  | failDump (receiving : s.ctl.station = .dumpReceive) : AppliedLoud s r s.failDump
  | installDump {b0 : DumpBuild} {p : DumpPart} (receiving : s.ctl.station = .dumpReceive)
      (build : s.engine.build = some b0)
      (complete : (b0.addPart s.cfg.guard s.cfg.budget r.source p).complete s.own = true) :
      AppliedLoud s r (s.installDump (b0.addPart s.cfg.guard s.cfg.budget r.source p))

/-- What the engine makes of a record that changes the replica, the tally or the dump build and nothing more. -/
inductive AppliedQuiet (s : State) (r : Record) : State → Prop
  | place {e : Byte} {es : List PlaceEntry} (run : s.ctl.station = .run) (near : stampCase s.timer.period e ≠ .far) :
      AppliedQuiet s r (s.applyPlaceRecord r.source e es)
  | join {e : Byte} (run : s.ctl.station = .run) (near : stampCase s.timer.period e ≠ .far) :
      AppliedQuiet s r (s.joined r.source e).oweDump
  | joinMismatch {e : Byte} (run : s.ctl.station = .run) : AppliedQuiet s r (s.blankIfOverdue e).oweDump
  | evict {e : Byte} {ps : List Pair} (run : s.ctl.station = .run) (near : stampCase s.timer.period e ≠ .far)
      (others : (evictPairs s.own s.engine.replica ps).2 = false) :
      AppliedQuiet s r ((s.pruned (s.evictedReplica ps).roster).commit e (s.evictedReplica ps) [] id)
  | shed {e : Byte} {l : Num4} (run : s.ctl.station = .run) (near : stampCase s.timer.period e ≠ .far) :
      AppliedQuiet s r (s.applyShedRecord e l)
  | dumpOpen (run : s.ctl.station = .run) : AppliedQuiet s r (s.applyDumpOpenRecord r.source)
  | dumpPart {b0 : DumpBuild} {p : DumpPart} (receiving : s.ctl.station = .dumpReceive) (build : s.engine.build = some b0) :
      AppliedQuiet s r
        { s with engine := { s.engine with build := some (b0.addPart s.cfg.guard s.cfg.budget r.source p) } }
  | tally (run : s.ctl.station = .run) (w : List Nat) (m : Byte) :
      AppliedQuiet s r { s with engine := { s.engine with witnesses := w, mismatches := m } }
  | scene {x : Cursor × Four Channel} (run : s.ctl.station = .run) : AppliedQuiet s r (s.setScene x)

/-- The engine, the controller, the loader, the line parameters, the period number and what is pending stand with the rest; outside
RUN the whole output stage does. -/
structure Rests (s t : State) : Prop where
  quiet : Quiet s t
  loader : t.loader = s.loader
  cfg : t.cfg = s.cfg
  period : t.timer.period = s.timer.period
  engine : t.engine = s.engine
  pending : t.out.pending = s.out.pending
  ctl : t.ctl = s.ctl
  out : s.ctl.station ≠ .run → t.out = s.out

theorem Rests.refl (s : State) : Rests s s := ⟨.refl s, rfl, rfl, rfl, rfl, rfl, rfl, fun _ => rfl⟩

theorem useHead_usedIn {s : State} {r : Record} (h : s.useHead = some r) : r.payload.usedIn s.ctl.station = true := by
  obtain ⟨-, -, -, used⟩ := useHead_eq_some.mp h
  exact used

theorem useHead_listening {s : State} {r : Record} (h : s.useHead = some r) : s.ctl.station.listening = true := by
  obtain ⟨listening, -⟩ := useHead_eq_some.mp h
  exact listening

/-- A record of a kind that has a use in RUN alone is used in RUN. -/
theorem useHead_run {s : State} {r : Record} (h : s.useHead = some r)
    (kind : ∀ st, r.payload.usedIn st = (st == .run)) : s.ctl.station = .run := by
  have used := useHead_usedIn h
  rw [kind, beq_iff_eq] at used
  exact used

/-- A state-changing record is used in RUN alone (R62). -/
theorem usedIn_of_stamp {p : Payload} {e : Byte} (h : p.e = some e) (st : StationState) :
    p.usedIn st = (st == .run) := by
  cases p with
  | join | evict | place | shed => rfl
  | _ => cases h

theorem applied_cases {s t : State} {r : Record} (head : s.useHead = some r) (h : Applied s r t) :
    AppliedLoud s r t ∨ Rests s t ∨ AppliedQuiet s r t := by
  cases h with
  | far stamp => exact .inl (.warmRestart (useHead_run head (usedIn_of_stamp stamp)))
  | place kind near => exact .inr (.inr (.place (useHead_run head (by simp [kind, Payload.usedIn])) near))
  | @join e d kind near =>
    have run := useHead_run head (by simp [kind, Payload.usedIn])
    refine .inr (.inr ?_)
    by_cases match_ : d = s.loader.digest
    · exact applyJoinRecord_match match_ ▸ .join run near
    · exact applyJoinRecord_mismatch match_ ▸ .joinMismatch run
  | @evict e ps kind near =>
    have run := useHead_run head (by simp [kind, Payload.usedIn])
    cases self : (evictPairs s.own s.engine.replica ps).2
    · exact .inr (.inr (applyEvictRecord_others self ▸ .evict run near self))
    · exact .inl (applyEvictRecord_self self ▸ .warmRestart run)
  | shed kind near => exact .inr (.inr (.shed (useHead_run head (by simp [kind, Payload.usedIn])) near))
  | dumpOpen kind => exact .inr (.inr (.dumpOpen (useHead_run head (by simp [kind, Payload.usedIn]))))
  | dumpPart kind =>
    have used := useHead_usedIn head
    rw [kind] at used
    have receiving : s.ctl.station = .dumpReceive := by simpa [Payload.usedIn] using used
    unfold State.applyDumpPartRecord
    split
    · exact .inr (.inl (.refl s))
    next b0 build =>
      dsimp only
      split
      · split
        next complete => exact .inl (.installDump receiving build complete)
        · exact .inl (.failDump receiving)
      · exact .inr (.inr (.dumpPart receiving build))
  | @presence p n c i kind =>
    have run := useHead_run head (by simp [kind, Payload.usedIn])
    by_cases judged : s.judges r = true
    · by_cases agrees : s.presenceMatches r.stamp p n c = true
      · rw [applyPresenceRecord_match judged agrees]
        exact .inr (.inr (.tally run _ _))
      · rw [applyPresenceRecord_mismatch judged agrees]
        split
        · exact .inl (.warmRestart run)
        · exact .inr (.inr (.tally run _ _))
    · rw [applyPresenceRecord_not_judged judged]
      exact .inr (.inl (.refl s))
  | level => exact .inr (.inl ⟨.of_eq rfl rfl, rfl, rfl, rfl, rfl, rfl, rfl, fun _ => rfl⟩)
  | scene kind => exact .inr (.inr (.scene (useHead_run head (by simp [kind, Payload.usedIn]))))
  | sceneMore kind => exact .inr (.inr (.scene (useHead_run head (by simp [kind, Payload.usedIn]))))
  | query => exact .inr (.inl ⟨.of_slots rfl (giveReport_eases _ _ _) rfl, rfl, rfl, rfl, rfl, rfl, rfl, fun _ => rfl⟩)

theorem appliedQuiet_quiet {s t : State} {r : Record} (h : AppliedQuiet s r t) : Quiet s t := by
  cases h with
  | place => exact commit_quiet (handOutcomes_line _) (handOutcomes_ctl _) _ _ _ _
  | @join e =>
    refine .trans ?_ (.of_eq (oweDump_line _) rfl)
    obtain ⟨line, -⟩ := commit_quiet (f := id) (fun _ => rfl) (fun _ => rfl) s e (s.engine.replica.joined r.source)
      (s.joinTouched r.source)
    exact ⟨line, by rw [joined_ctl]⟩
  | joinMismatch => exact .of_eq (by simp) (by simp)
  | evict => exact .trans (.of_eq rfl rfl) (commit_quiet (f := id) (fun _ => rfl) (fun _ => rfl) _ _ _ _)
  | shed => exact commit_quiet (handSheds_line _) (handSheds_ctl _) _ _ _ _
  | dumpOpen => exact .of_slots rfl (cancelDump_eases _ _) rfl
  | dumpPart => exact .of_eq rfl rfl
  | tally => exact .of_eq rfl rfl
  | scene => exact .of_eq rfl rfl

/-- R52: an acceptance that does not halt the station, `boundary` being the mark of the message. -/
def State.acceptedBy (s : State) (queued boundary : Bool) (m : Message) : State :=
  (((s.heard queued boundary m).acceptDecision boundary m).ownEnd s.line.attempt).settleSlots

/-- The effects that change the station state or the straps, end or begin an attempt, or fill the queue. -/
inductive Loud (c : Instr) (s : State) : State → Prop
  | coldReset (n : Nat) (cause : HaltCause) (reset : ∃ x, c = .coldReset x) :
      Loud c s ({ s with freeIndex := n }.coldReset cause)
  | strapsTaken {n : Nat} (loading : s.ctl.station = .loading) (waiting : s.loader.phase = .waiting) (lo : 1 ≤ n)
      (hi : n ≤ 30) :
      Loud c s
        { s with freeIndex := s.freeIndex + 1, loader := { s.loader with strap := n, phase := .reading, pins := .transaction } }
  | halt (l : Loader) (strap : l.strap = s.loader.strap ∨ s.ctl.station = .loading) (cause : HaltCause) :
      Loud c s ({ s with loader := l }.halt cause)
  | configured {image : List Byte} (read : ∃ memory, c = .configurationReadComplete memory)
      (loading : s.ctl.station = .loading) (reading : s.loader.phase = .reading) (valid : imageValid image = true) :
      Loud c s (s.configure image)
  | periodStart (pull : Bool) (runs : s.ctl.station.timerRuns = true) : Loud c s (s.periodStart pull)
  | dumpTimesOut (receiving : s.ctl.station = .dumpReceive) : Loud c s (s.lineAtRest none).failDump
  | attemptStart (opportunity : s.opportunity = true) :
      Loud c s (State.tryBuilds allSlots.length (allSlots.filter s.ready) s).settleSlots
  | attemptLost : Loud c s s.attemptLost
  | brokenOff : Loud c s (s.attemptFailed false)
  | failed {m : Reception} (others : Bool) (received : s.receives m = true) : Loud c s (s.failMessage m others)
  | accepted {m : Reception} {msg : Message} (accepts : Accepts s m msg) (single : s.duplicate msg = false)
      (agreed : s.mismatched msg = false) : Loud c s (s.acceptedBy (s.queues m msg) (s.boundaryOf m.boundary) msg)
  | applied {r : Record} {t : State} (head : s.useHead = some r) (record : AppliedLoud s r t) : Loud c s t.dropHead

theorem dropHead_rests (s : State) : Rests s s.dropHead :=
  ⟨dropHead_quiet s, rfl, rfl, rfl, rfl, rfl, rfl, fun _ => rfl⟩

theorem Rests.trans {s t u : State} (h : Rests s t) (g : Rests t u) : Rests s u where
  quiet := h.quiet.trans g.quiet
  loader := g.loader.trans h.loader
  cfg := g.cfg.trans h.cfg
  period := g.period.trans h.period
  engine := g.engine.trans h.engine
  pending := g.pending.trans h.pending
  ctl := g.ctl.trans h.ctl
  out := fun outside => (g.out (by rw [h.ctl]; exact outside)).trans (h.out outside)

theorem keyOperation_rests (s : State) (k : Num4) (op : LevelOp) (v : Nat) : Rests s (s.keyOperation k op v) where
  quiet := keyOperation_quiet s k op v
  loader := by simp
  cfg := by simp
  period := by simp
  engine := by simp
  pending := by simp
  ctl := by simp
  out := fun _ => by simp

/-- A driven sample is one in RUN (R152, R155). -/
theorem samples_run {s : State} {n : Num4} (h : s.samples n = true) : s.ctl.station = .run := by
  by_contra outside
  simp [State.samples, outActive_outside_run outside] at h

theorem sample_rests {s : State} {n : Num4} (driven : s.samples n = true) (high : Bool) : Rests s (s.sample n high) := by
  have outside : ∀ t : State, s.ctl.station ≠ .run → t.out = s.out := fun t h => absurd (samples_run driven) h
  have quiet := sample_quiet s n high
  rcases sample_cases s n high with ⟨count, eq⟩ | ⟨-, -, eq⟩ <;> rw [eq] at quiet ⊢
  · exact ⟨quiet, rfl, rfl, rfl, rfl, rfl, rfl, outside _⟩
  · exact ⟨quiet, rfl, rfl, rfl, rfl, rfl, rfl, outside _⟩

/-- Every effect is loud, or rests, or applies a record quietly. -/
theorem effect_cases {c : Instr} {s t : State} (h : Effect c s t) :
    Loud c s t ∨ Rests s t ∨ ∃ r u, s.useHead = some r ∧ AppliedQuiet s r u ∧ t = u.dropHead := by
  cases h with
  | stands => exact .inr (.inl (.refl s))
  | coldReset n cause reset => exact .inl (.coldReset n cause reset)
  | pulseIgnored => exact .inr (.inl ⟨.of_eq rfl rfl, rfl, rfl, rfl, rfl, rfl, rfl, fun _ => rfl⟩)
  | strapsTaken loading waiting lo hi => exact .inl (.strapsTaken loading waiting lo hi)
  | strapsRefused loading => exact .inl (.halt _ (.inr loading) _)
  | configured read loading reading valid => exact .inl (.configured read loading reading valid)
  | imageRefused loading => exact .inl (.halt _ (.inr loading) _)
  | periodStart pull runs => exact .inl (.periodStart pull runs)
  | slotBoundary => exact .inr (.inl ⟨.of_eq rfl rfl, rfl, rfl, rfl, rfl, rfl, rfl, fun _ => rfl⟩)
  | runClosedFails receiving => exact .inl (.dumpTimesOut receiving)
  | attemptStart opportunity => exact .inl (.attemptStart opportunity)
  | attemptLost => exact .inl .attemptLost
  | attemptDuplicate => exact .inl (.halt s.loader (.inl rfl) _)
  | brokenOff => exact .inl .brokenOff
  | @accepted m msg accepts =>
    refine .inl ?_
    rcases accept_cases s (s.queues m msg) m.boundary msg with ⟨-, eq⟩ | ⟨-, eq⟩ | ⟨single, agreed, eq⟩ <;> rw [eq]
    · exact .halt s.loader (.inl rfl) _
    · exact .halt s.loader (.inl rfl) _
    · exact .accepted accepts single agreed
  | failed others received => exact .inl (.failed others received)
  | applied head record =>
    rcases applied_cases head record with loud | rests | quiet
    · exact .inl (.applied head loud)
    · exact .inr (.inl (rests.trans (dropHead_rests _)))
    · exact .inr (.inr ⟨_, _, head, quiet, rfl⟩)
  | discarded => exact .inr (.inl (dropHead_rests s))
  | measured => exact .inr (.inl ⟨.of_eq rfl rfl, rfl, rfl, rfl, rfl, rfl, rfl, fun _ => rfl⟩)
  | measuredToggle key v =>
    exact .inr (.inl (.trans (t := s.measured key v.toNat)
      ⟨.of_eq rfl rfl, rfl, rfl, rfl, rfl, rfl, rfl, fun _ => rfl⟩ (keyOperation_rests _ _ _ _)))
  | sampled n high driven => exact .inr (.inl (sample_rests driven high))
  | _ => exact .inr (.inl ⟨⟨⟨rfl, rfl, List.suffix_rfl, .refl _⟩, rfl⟩, rfl, rfl, rfl, rfl, rfl, rfl, fun _ => rfl⟩)

theorem effect_loud {c : Instr} {s t : State} (h : Effect c s t) : Loud c s t ∨ Quiet s t := by
  rcases effect_cases h with loud | rests | ⟨r, u, -, applied, rfl⟩
  · exact .inl loud
  · exact .inr rests.quiet
  · exact .inr ((appliedQuiet_quiet applied).trans (dropHead_quiet u))

/-! ## The station state under the effects that are not quiet -/

/-- R111: a period start changes the station state at the expiry of the join wait alone. -/
theorem periodStart_station (s : State) (pull : Bool) :
    (s.periodStart pull).ctl.station =
      if s.ctl.station = .joinWait ∧ s.ctl.joinWait = 1 then .foundSend else s.ctl.station := by
  have ctl : ((s.timerStarted pull).outputPeriodStart.touchPeriodStart).ctl = s.ctl := by simp [State.timerStarted]
  rw [periodStart_ctl]
  generalize (s.timerStarted pull).outputPeriodStart.touchPeriodStart = u at ctl
  rw [← ctl]
  by_cases run : u.ctl.station = .run
  · rw [(controllerPeriodStart_run run).1]
    simp [run]
  by_cases joining : u.ctl.station = .joinWait
  · by_cases waits : 0 < u.ctl.joinWait
    · rw [controllerPeriodStart_joinWait joining waits]
      by_cases last : u.ctl.joinWait = 1
      · simp only [joining, last, and_self, if_true]
        rfl
      · simp only [joining, last, and_false, if_false]
    · have none : u.ctl.joinWait = 0 := by omega
      simp [State.controllerPeriodStart, State.joinWaitPeriodStart, State.presencePeriodStart, State.silencePeriodStart,
        joining, none]
  · rw [controllerPeriodStart_other run joining]
    simp [joining]

/-! ## O55, first part, and O59: channels and configuration -/

theorem untaken_ok : Channel.untaken.Ok State.reset.cfg.placeable := by
  unfold Channel.Ok
  decide

theorem imageValid_guard {image : List Byte} (h : imageValid image = true) : (imageParams image).guard ≤ 8 := by
  simp only [imageValid, LineParams.valid, Bool.and_eq_true, decide_eq_true_eq] at h
  omega

theorem imageChannel_ok {image : List Byte} (h : imageValid image = true) (n : Num4) :
    (imageChannel image (imageParams image).placeable n).Ok (imageParams image).placeable := by
  have guard := imageValid_guard h
  exact fromImage_ok (by simp only [LineParams.placeable, Config.slots]; omega)

theorem effect_channelLaw {c : Instr} {s t : State} (h : ChannelLaw s) (effect : Effect c s t) : ChannelLaw t := by
  rw [channelLaw_iff] at h ⊢
  rcases effect_chans effect with ⟨f, cause, -, rfl⟩ | ⟨image, -, -, valid, rfl⟩ | ⟨n, high, rfl⟩ | ⟨cfg, moves⟩
  · intro n
    rw [show (State.coldReset _ cause).chans.get n = .untaken from reset_chan n]
    exact untaken_ok
  · intro n
    rw [show (s.configure image).chans.get n = imageChannel image _ n from Four.get_tabulate _ n]
    exact imageChannel_ok valid n
  · rcases sample_cases s n high with ⟨count, eq⟩ | ⟨-, -, eq⟩ <;> rw [eq]
    · exact h
    · intro j
      rw [State.settleSlots_chans, reportOpen_chans, Four.get_set]
      split
      · exact opened_ok _ (h n)
      · exact h j
  · exact fun n => cfg ▸ (moves n).ok (h n)

/-- Settles O59: the effects that change a configuration value come of the two commands excluded. -/
theorem configurationHeld : Obligations.ConfigurationHeld := by
  intro s t c noReset noImage h
  rcases effect_configuration (exec_effect h) with
    ⟨f, cause, ⟨x, isReset⟩, -⟩ | ⟨image, ⟨m, isImage⟩, loading, -⟩ | same
  · exact absurd isReset (noReset x)
  · exact absurd loading (noImage m isImage)
  · exact same

/-! ## O58: attempts and HALTED -/

theorem AttemptLaw.quiet {s t : State} (h : AttemptLaw s) (q : Quiet s t) : AttemptLaw t := by
  obtain ⟨⟨attempt, pending, -, -⟩, station⟩ := q
  unfold AttemptLaw
  rw [attempt, pending, station]
  exact h

/-- A state with no attempt and no restart that waits. -/
theorem AttemptLaw.of_none {t : State} (attempt : t.line.attempt = none) (pending : t.line.restartPending = false) :
    AttemptLaw t := by
  rw [AttemptLaw, attempt, pending]
  simp

/-- A listening station whose waiting restart has an attempt to wait for. -/
theorem AttemptLaw.of_listening {t : State} (listening : t.ctl.station.listening = true)
    (pending : t.line.restartPending = true → t.line.attempt.isSome = true) : AttemptLaw t :=
  ⟨fun deaf => absurd (listening.symm.trans deaf) (by decide), pending⟩

theorem abandonSlot_line (s : State) (id : SlotId) :
    (s.abandonSlot id).line.attempt = s.line.attempt ∧ (s.abandonSlot id).line.restartPending = s.line.restartPending ∧
      (s.abandonSlot id).line.inbound = s.line.inbound := by
  unfold State.abandonSlot
  cases id with
  | dump => dsimp only; split <;> exact ⟨rfl, rfl, rfl⟩
  | joinFound => dsimp only; split <;> exact ⟨rfl, rfl, rfl⟩
  | _ => exact ⟨rfl, rfl, rfl⟩

theorem failSlot_line (s : State) (id : SlotId) (hold : Bool) :
    (s.failSlot id hold).line.attempt = s.line.attempt ∧
      (s.failSlot id hold).line.restartPending = s.line.restartPending ∧
      (s.failSlot id hold).line.inbound = s.line.inbound := by
  unfold State.failSlot
  dsimp only
  split
  · exact abandonSlot_line s id
  · exact ⟨rfl, rfl, rfl⟩

theorem attemptFailed_attemptLaw {s : State} (h : AttemptLaw s) (hold : Bool) : AttemptLaw (s.attemptFailed hold) := by
  rcases attemptFailed_cases s hold with ⟨-, eq⟩ | ⟨a, -, ⟨-, eq⟩ | ⟨pending, eq⟩⟩ <;> rw [eq]
  · exact h
  · exact .of_none rfl rfl
  · obtain ⟨attempt, restart, -⟩ := failSlot_line s.ended a.slot hold
    exact .quiet (.of_none attempt (restart.trans pending)) (settleSlots_quiet _)

theorem slotDone_line {s t : State} {a : Attempt} (h : SlotDone s a t) : s.line.SameButSlots t.line := by
  cases h <;> rfl

theorem decided_line {s t : State} (h : Decided s t) :
    t.line.attempt = s.line.attempt ∧ t.line.restartPending = s.line.restartPending := by
  cases h <;> exact ⟨rfl, rfl⟩

theorem acceptedBy_attemptLaw {s : State} (h : AttemptLaw s) (queued boundary : Bool) (m : Message) :
    AttemptLaw (s.acceptedBy queued boundary m) := by
  refine .quiet ?_ (settleSlots_quiet _)
  have decided := decided_line (acceptDecision_decided (s.heard queued boundary m) boundary m)
  rw [heard_line] at decided
  obtain ⟨attempt, pending⟩ := decided
  generalize (s.heard queued boundary m).acceptDecision boundary m = u at attempt pending
  cases sending : s.line.attempt with
  | none =>
    have rested : s.line.restartPending = false := by
      by_contra waits
      have := h.2 (by simpa using waits)
      rw [sending] at this
      cases this
    exact .of_none attempt (pending.trans rested)
  | some a =>
    simp only [State.ownEnd, State.acceptOwn]
    split
    · exact .of_none attempt rfl
    next rested =>
      have same := slotDone_line (slotAccepted_done u a)
      rw [LineInterface.SameButSlots] at same
      refine .of_none ?_ ?_
      · rw [same]; exact attempt
      · rw [same]; exact Bool.eq_false_iff.mpr rested

theorem warmRestart_attemptLaw (s : State) : AttemptLaw s.warmRestart := by
  unfold State.warmRestart
  dsimp only
  split
  next sending => exact .of_listening rfl fun _ => sending
  · exact .of_listening rfl fun waits => by cases waits

theorem timerRuns_eq_listening (st : StationState) : st.timerRuns = st.listening := by cases st <;> rfl

theorem periodStart_listening (s : State) (pull : Bool) :
    (s.periodStart pull).ctl.station.listening = s.ctl.station.listening := by
  rw [periodStart_station]
  split
  next ends => rw [ends.1]; rfl
  · rfl

theorem periodStart_attempt (s : State) (pull : Bool) :
    (s.periodStart pull).line.attempt = s.line.attempt.map (fun a => { a with crossed := true }) ∧
      (s.periodStart pull).line.restartPending = s.line.restartPending ∧
      (s.periodStart pull).line.inbound = s.line.inbound := by
  rw [periodStart_line]
  exact ⟨rfl, rfl, rfl⟩

theorem loud_attemptLaw {c : Instr} {s t : State} (h : AttemptLaw s) (loud : Loud c s t) : AttemptLaw t := by
  cases loud with
  | coldReset n cause => exact .of_none rfl rfl
  | strapsTaken => exact h
  | halt => exact .of_none rfl rfl
  | configured read loading => exact .of_listening rfl h.2
  | periodStart pull runs =>
    obtain ⟨attempt, pending, -⟩ := periodStart_attempt s pull
    refine .of_listening (by rw [periodStart_listening, ← timerRuns_eq_listening]; exact runs) fun waits => ?_
    rw [attempt, Option.isSome_map]
    exact h.2 (pending ▸ waits)
  | dumpTimesOut => exact .of_listening rfl h.2
  | attemptStart opportunity =>
    obtain ⟨cs, f, a, eq, -, -⟩ := tryBuilds_eq allSlots.length (allSlots.filter s.ready) s
    refine .quiet ?_ (settleSlots_quiet _)
    rw [eq]
    cases a with
    | none => exact h
    | some a =>
      simp only [State.opportunity, Bool.and_eq_true] at opportunity
      exact .of_listening opportunity.1.1.1 fun _ => rfl
  | attemptLost =>
    rcases attemptLost_cases s with ⟨-, eq⟩ | ⟨a, -, ⟨-, eq⟩ | ⟨pending, eq⟩⟩ <;> rw [eq]
    · exact h
    · exact .of_none rfl rfl
    · exact .of_none rfl pending
  | brokenOff => exact attemptFailed_attemptLaw h false
  | failed others received => exact attemptFailed_attemptLaw (s := s.countSignals _ _ _) h _
  | accepted => exact acceptedBy_attemptLaw h _ _ _
  | applied head record =>
    refine .quiet ?_ (dropHead_quiet _)
    cases record with
    | warmRestart => exact warmRestart_attemptLaw s
    | failDump => exact .of_listening rfl h.2
    | installDump => exact .of_listening rfl h.2

theorem effect_attemptLaw {c : Instr} {s t : State} (h : AttemptLaw s) (effect : Effect c s t) : AttemptLaw t := by
  rcases effect_loud effect with loud | quiet
  · exact loud_attemptLaw h loud
  · exact h.quiet quiet

/-- R128: of the effects a station in HALTED has none but that of a cold reset. -/
theorem effect_halted {c : Instr} {s t : State} (law : AttemptLaw s) (halted : s.ctl.station = .halted)
    (noReset : ∀ cause, c ≠ .coldReset cause) (effect : Effect c s t) : t = s := by
  have deaf : s.ctl.station.listening = false := by rw [halted]; rfl
  have stopped : s.ctl.station.timerRuns = false := by rw [halted]; rfl
  have silent := law.1 deaf
  have notReceived : ∀ m, s.receives m ≠ true := fun m received => by
    have := receives_listening received
    rw [deaf] at this
    cases this
  have noHead : s.engineHead = none := by simp [State.engineHead, deaf]
  cases effect with
  | stands => rfl
  | coldReset n cause reset => obtain ⟨x, eq⟩ := reset; exact absurd eq (noReset x)
  | pulseIgnored reset => obtain ⟨x, eq⟩ := reset; exact absurd eq (noReset x)
  | attemptLost => simp [State.attemptLost, silent]
  | brokenOff => simp [State.attemptFailed, silent]
  | attemptDuplicate sending => rw [silent] at sending; cases sending
  | accepted accepts => exact absurd accepts.1 (notReceived _)
  | failed others received => exact absurd received (notReceived _)
  | attemptStart opportunity => simp [State.opportunity, deaf] at opportunity
  | applied head => simp [State.useHead, noHead] at head
  | discarded head => rw [noHead] at head; cases head
  | sampled n high driven =>
    simp [State.samples, outActive_outside_run (s := s) (by rw [halted]; simp)] at driven
  | _ => simp_all [StationState.listening, StationState.timerRuns]

/-- No command ends in a fault or a refusal. -/
theorem exec_answers (c : Instr) (s : State) : ∃ t, exec c s = .next t := by
  cases c with
  | coldReset cause => cases cause <;> exact ⟨_, rfl⟩
  | configurationLoaderStart straps =>
    simp only [exec, execConfigurationLoaderStart]
    repeat' split
    all_goals exact ⟨_, rfl⟩
  | configurationReadComplete memory =>
    simp only [exec, execConfigurationReadComplete]
    repeat' split
    all_goals exact ⟨_, rfl⟩
  | slotBoundary => simp only [exec, execSlotBoundary]; split <;> exact ⟨_, rfl⟩
  | lineIdle => simp only [exec, execLineIdle]; split <;> exact ⟨_, rfl⟩
  | messageCutShort => simp only [exec, execMessageCutShort]; split <;> exact ⟨_, rfl⟩
  | attemptStart => simp only [exec, execAttemptStart]; split <;> exact ⟨_, rfl⟩
  | arbitrationLoss char bit =>
    simp only [exec, execArbitrationLoss]
    repeat' split
    all_goals exact ⟨_, rfl⟩
  | messageAccepted m =>
    simp only [exec, execMessageAccepted]
    repeat' split
    all_goals exact ⟨_, rfl⟩
  | messageFailed m e hold => simp only [exec, execMessageFailed]; split <;> exact ⟨_, rfl⟩
  | runLockTimeout => simp only [exec, execRunLockTimeout]; split <;> exact ⟨_, rfl⟩
  | abandon f =>
    simp only [exec, execAbandon]
    repeat' split
    all_goals exact ⟨_, rfl⟩
  | applyPlace => simp only [exec, execApplyPlace]; split <;> exact ⟨_, rfl⟩
  | applyJoin => simp only [exec, execApplyJoin]; split <;> exact ⟨_, rfl⟩
  | applyEvict => simp only [exec, execApplyEvict]; split <;> exact ⟨_, rfl⟩
  | applyShed => simp only [exec, execApplyShed]; split <;> exact ⟨_, rfl⟩
  | applyDumpOpen => simp only [exec, execApplyDumpOpen]; split <;> exact ⟨_, rfl⟩
  | applyDumpPart => simp only [exec, execApplyDumpPart]; split <;> exact ⟨_, rfl⟩
  | applyPresence =>
    simp only [exec, execApplyPresence]
    repeat' split
    all_goals exact ⟨_, rfl⟩
  | applyLevel => simp only [exec, execApplyLevel]; split <;> exact ⟨_, rfl⟩
  | applyScene => simp only [exec, execApplyScene]; split <;> exact ⟨_, rfl⟩
  | applySceneMore => simp only [exec, execApplySceneMore]; split <;> exact ⟨_, rfl⟩
  | applyQuery => simp only [exec, execApplyQuery]; split <;> exact ⟨_, rfl⟩
  | discardRecord =>
    simp only [exec, execDiscardRecord]
    repeat' split
    all_goals exact ⟨_, rfl⟩
  | measurementEnd key value => simp only [exec, execMeasurementEnd]; split <;> exact ⟨_, rfl⟩
  | senseSample channel high => simp only [exec, execSenseSample]; split <;> exact ⟨_, rfl⟩
  | _ => exact ⟨_, rfl⟩

/-- Settles O58: what is not quiet ends attempts and restarts together, and a halted station has no effect left to have. -/
theorem haltedFrozen : Obligations.HaltedFrozen := by
  refine ⟨fun _ _ => step_keeps (P := AttemptLaw) (fun _ _ h => h) (fun _ _ _ h effect => effect_attemptLaw h effect), ?_⟩
  intro s c law halted noReset
  obtain ⟨t, eq⟩ := exec_answers c s
  rw [eq, effect_halted law halted noReset (exec_effect eq)]

end Sys2Proof.Machine

/-! The bounds of the inbound queue and of the transmit slots, and what a station outside RUN holds nothing of. -/

namespace Sys2Proof.Machine

/-! ## An acceptance, stage by stage -/

/-- R52: the decision, and after it what the own attempt, if there is one, makes of the state. -/
inductive AcceptEnd (s d : State) : State → Prop
  | unsent (attempt : s.line.attempt = none) : AcceptEnd s d d
  | restarted {a : Attempt} (attempt : s.line.attempt = some a) (waits : s.line.restartPending = true) :
      AcceptEnd s d d.lineRestarted
  | done {a : Attempt} {e : State} (attempt : s.line.attempt = some a) (rested : s.line.restartPending = false)
      (done : SlotDone (d.counted a.slot) a e) : AcceptEnd s d e

theorem heard_attempt (s : State) (queued boundary : Bool) (m : Message) :
    (s.heard queued boundary m).line.attempt = none ∧
      (s.heard queued boundary m).line.restartPending = s.line.restartPending ∧
      (s.heard queued boundary m).line.slots = s.line.slots := by
  rw [heard_line]
  exact ⟨rfl, rfl, rfl⟩

theorem acceptedBy_cases (s : State) (queued boundary : Bool) (m : Message) :
    ∃ d e, Decided (s.heard queued boundary m) d ∧ AcceptEnd s d e ∧
      s.acceptedBy queued boundary m = e.settleSlots := by
  have decided := acceptDecision_decided (s.heard queued boundary m) boundary m
  have pending := (decided_line decided).2.trans (heard_attempt s queued boundary m).2.1
  refine ⟨_, _, decided, ?_, rfl⟩
  cases sending : s.line.attempt with
  | none => exact .unsent sending
  | some a =>
    simp only [State.ownEnd, State.acceptOwn]
    split
    next waits => exact .restarted sending (pending ▸ waits)
    next rested => exact .done sending (pending ▸ Bool.eq_false_iff.mpr rested) (slotAccepted_done _ a)

/-! ## The inbound queue -/

theorem decided_inbound {s t : State} (h : Decided s t) : t.line.inbound = s.line.inbound ∨ t.line.inbound = [] := by
  cases h with
  | fails => exact .inr rfl
  | _ => exact .inl rfl

theorem acceptEnd_inbound {s d e : State} (h : AcceptEnd s d e) : e.line.inbound = d.line.inbound ∨ e.line.inbound = [] := by
  cases h with
  | unsent => exact .inl rfl
  | restarted => exact .inr rfl
  | done _ _ done =>
    have same := slotDone_line done
    rw [LineInterface.SameButSlots] at same
    exact .inl (by rw [same]; rfl)

theorem attemptFailed_inbound (s : State) (hold : Bool) :
    (s.attemptFailed hold).line.inbound = s.line.inbound ∨ (s.attemptFailed hold).line.inbound = [] := by
  rcases attemptFailed_cases s hold with ⟨-, eq⟩ | ⟨a, -, ⟨-, eq⟩ | ⟨-, eq⟩⟩ <;> rw [eq]
  · exact .inl rfl
  · exact .inr rfl
  · exact .inl (failSlot_line s.ended a.slot hold).2.2

theorem warmRestart_inbound (s : State) :
    s.warmRestart.line.inbound = s.line.inbound ∨ s.warmRestart.line.inbound = [] := by
  rw [warmRestart_line]
  split
  · exact .inl rfl
  · exact .inr rfl

/-- The queue under an effect loses records, or an acceptance queues the record of its message. -/
theorem effect_inbound {c : Instr} {s t : State} (h : Effect c s t) :
    (∀ r ∈ t.line.inbound, r ∈ s.line.inbound) ∧ t.line.inbound.length ≤ s.line.inbound.length ∨
      ∃ m msg boundary, Accepts s m msg ∧ s.queues m msg = true ∧
        t.line.inbound = s.line.inbound ++ [s.recordOf boundary msg] := by
  have same : ∀ {t : State}, t.line.inbound = s.line.inbound ∨ t.line.inbound = [] →
      (∀ r ∈ t.line.inbound, r ∈ s.line.inbound) ∧ t.line.inbound.length ≤ s.line.inbound.length := by
    rintro t (eq | eq) <;> rw [eq] <;> simp
  rcases effect_loud h with loud | ⟨⟨-, -, suffix, -⟩, -⟩
  · cases loud with
    | coldReset => exact .inl (same (.inr rfl))
    | strapsTaken => exact .inl (same (.inl rfl))
    | halt => exact .inl (same (.inr rfl))
    | configured => exact .inl (same (.inl rfl))
    | periodStart pull => exact .inl (same (.inl (periodStart_attempt s pull).2.2))
    | dumpTimesOut => exact .inl (same (.inr rfl))
    | attemptStart =>
      obtain ⟨cs, f, a, eq, -, -⟩ := tryBuilds_eq allSlots.length (allSlots.filter s.ready) s
      rw [eq]
      exact .inl (same (.inl (by cases a <;> rfl)))
    | attemptLost =>
      rcases attemptLost_cases s with ⟨-, eq⟩ | ⟨a, -, ⟨-, eq⟩ | ⟨-, eq⟩⟩ <;> rw [eq]
      · exact .inl (same (.inl rfl))
      · exact .inl (same (.inr rfl))
      · exact .inl (same (.inl rfl))
    | brokenOff => exact .inl (same (attemptFailed_inbound s _))
    | failed => exact .inl (same (attemptFailed_inbound (s.countSignals _ _ _) _))
    | @accepted m msg accepts =>
      obtain ⟨d, e, decided, ended, eq⟩ := acceptedBy_cases s (s.queues m msg) (s.boundaryOf m.boundary) msg
      rw [eq]
      have settled : e.settleSlots.line.inbound = e.line.inbound := rfl
      have queue : (s.heard (s.queues m msg) (s.boundaryOf m.boundary) msg).line.inbound =
          if s.queues m msg then s.line.inbound ++ [s.recordOf (s.boundaryOf m.boundary) msg] else s.line.inbound := by
        rw [heard_line]
      rcases acceptEnd_inbound ended with e_eq | e_eq
      · rcases decided_inbound decided with d_eq | d_eq
        · cases queued : s.queues m msg
          · rw [queued] at queue d_eq
            exact .inl (same (.inl (by rw [settled, e_eq, d_eq, queue]; rfl)))
          · rw [queued] at queue d_eq
            exact .inr ⟨m, msg, _, accepts, queued, by rw [settled, e_eq, d_eq, queue]; rfl⟩
        · exact .inl (same (.inr (by rw [settled, e_eq, d_eq])))
      · exact .inl (same (.inr (by rw [settled, e_eq])))
    | @applied r t head record =>
      have dropped : t.dropHead.line.inbound = t.line.inbound.tail := by rw [dropHead_line]
      have kept : t.line.inbound = s.line.inbound ∨ t.line.inbound = [] := by
        cases record with
        | warmRestart => exact warmRestart_inbound s
        | failDump => exact .inr rfl
        | installDump => exact .inl rfl
      obtain ⟨mem, len⟩ := same kept
      refine .inl ⟨fun r hr => mem r (List.mem_of_mem_tail (dropped ▸ hr)), ?_⟩
      rw [dropped, List.length_tail]
      omega
  · exact .inl ⟨fun r hr => suffix.mem hr, suffix.length_le⟩

theorem effect_queueBounded {c : Instr} {s t : State} (h : QueueBounded s) (effect : Effect c s t) : QueueBounded t := by
  rcases effect_inbound effect with ⟨-, len⟩ | ⟨m, msg, boundary, accepts, queued, eq⟩
  · exact len.trans h
  · have room := queues_room accepts queued
    simp only [QueueBounded, Config.queueLimit, eq, List.length_append, List.length_singleton]
    omega

/-! ## Attempt counts and the cooldown -/

/-- R90, R105: attempt counts of 0..15 and a cooldown of 0..8, of the slots alone. -/
def TxSlots.Bounded (t : TxSlots) : Prop := (∀ id, (t.ctl id).attempts ≤ 15) ∧ t.cooldown ≤ Config.cooldownPeriods

theorem TxSlots.Bounded.eases {t t' : TxSlots} (h : t.Bounded) (g : t.Eases t') : t'.Bounded :=
  ⟨fun id => (g.2.2 id).trans (h.1 id), g.2.1.trans h.2⟩

/-- Slots with the counts of others, the cooldown no higher. -/
theorem TxSlots.Bounded.of_ctl {t t' : TxSlots} (h : t.Bounded) (ctl : ∀ id, t'.ctl id = t.ctl id)
    (cooldown : t'.cooldown ≤ Config.cooldownPeriods) : t'.Bounded :=
  ⟨fun id => by rw [ctl id]; exact h.1 id, cooldown⟩

theorem empty_bounded : TxSlots.empty.Bounded := by
  refine ⟨fun id => ?_, by simp [TxSlots.empty]⟩
  cases id with
  | level k => simp [TxSlots.empty, TxSlots.ctl, SlotCtl.clear]
  | _ => simp [TxSlots.empty, TxSlots.ctl, SlotCtl.clear]

/-- What the JOIN/FOUND slot holds is no count. -/
theorem TxSlots.Bounded.holds {t : TxSlots} (h : t.Bounded) (x : Option JoinFound) :
    TxSlots.Bounded { t with joinFoundHolds := x } :=
  h.of_ctl (fun id => by cases id <;> rfl) h.2

theorem TxSlots.Bounded.joinFound {t : TxSlots} (h : t.Bounded) (x : Option JoinFound) :
    TxSlots.Bounded { t with joinFound := { t.joinFound with attempts := 0 }, joinFoundHolds := x } := by
  refine ⟨fun id => ?_, h.2⟩
  cases id with
  | joinFound => exact Nat.zero_le _
  | dump => exact h.1 .dump
  | evict => exact h.1 .evict
  | place => exact h.1 .place
  | presence => exact h.1 .presence
  | report => exact h.1 .report
  | level k => exact h.1 (.level k)

theorem slotDone_bounded {s t : State} {a : Attempt} (h : SlotDone s a t) (b : s.line.slots.Bounded) :
    t.line.slots.Bounded := by
  cases h with
  | stands => exact b
  | joins => exact b.holds none
  | founds => exact b.holds none
  | levels => exact b.eases (setLevel_eases le_rfl)
  | _ => exact b.of_ctl (fun id => by cases id <;> rfl) b.2

theorem decided_bounded {s t : State} (h : Decided s t) (b : s.line.slots.Bounded) : t.line.slots.Bounded := by
  cases h with
  | stands => exact b
  | receives => exact b.holds none
  | returns => exact b.joinFound _
  | fails => exact b.joinFound _
  | closes => exact b

theorem lineRestarted_bounded (s : State) : s.lineRestarted.line.slots.Bounded := empty_bounded.holds _

theorem abandonSlot_bounded {s : State} (b : s.line.slots.Bounded) (id : SlotId) :
    (s.abandonSlot id).line.slots.Bounded := by
  have reset : (s.line.slots.setCtl id { attempts := 0, held := true }).Bounded := b.eases (setCtl_eases (Nat.zero_le _))
  unfold State.abandonSlot
  cases id with
  | place => exact reset.of_ctl (fun id => by cases id <;> rfl) le_rfl
  | dump =>
    dsimp only
    split
    · exact reset
    · exact reset.of_ctl (fun id => by cases id <;> rfl) reset.2
  | joinFound =>
    dsimp only
    split
    · exact reset.joinFound _
    · exact reset
    · exact reset
  | evict => exact reset
  | level k => exact reset.eases (setLevel_eases le_rfl)
  | _ => exact reset.of_ctl (fun id => by cases id <;> rfl) reset.2

theorem failSlot_bounded {s : State} (b : s.line.slots.Bounded) (id : SlotId) (hold : Bool) :
    (s.failSlot id hold).line.slots.Bounded := by
  unfold State.failSlot
  dsimp only
  split
  · exact abandonSlot_bounded b id
  next below =>
    simp only [Config.attemptLimit, not_le] at below
    refine TxSlots.Bounded.eases ⟨fun j => ?_, ?_⟩ (mergeFollowOn_eases _ id)
    · rw [TxSlots.ctl_setCtl]
      split
      · exact Nat.lt_succ_iff.mp below
      · exact b.1 j
    · rw [(setCtl_holds _ _ _).2]
      exact b.2

theorem attemptFailed_bounded {s : State} (b : s.line.slots.Bounded) (hold : Bool) :
    (s.attemptFailed hold).line.slots.Bounded := by
  rcases attemptFailed_cases s hold with ⟨-, eq⟩ | ⟨a, -, ⟨-, eq⟩ | ⟨-, eq⟩⟩ <;> rw [eq]
  · exact b
  · exact lineRestarted_bounded s.ended
  · exact (failSlot_bounded (s := s.ended) b a.slot hold).eases (settleSlots_quiet _).1.2.2.2

/-- R168: a key step does not raise the attempt count of a LEVEL slot. -/
theorem keySteps_level_attempts (s : State) (k : Num4) :
    (s.keySteps.line.slots.level.get k).ctl.attempts ≤ (s.line.slots.level.get k).ctl.attempts := by
  rw [keySteps_level]
  split
  · split
    · exact le_rfl
    · exact give_attempts _ _ _
  · exact le_rfl

theorem periodStart_bounded {s : State} (b : s.line.slots.Bounded) (pull : Bool) :
    (s.periodStart pull).line.slots.Bounded := by
  have line : (s.timerStarted pull).outputPeriodStart.line = s.line := by simp [State.timerStarted]
  have level := keySteps_level_attempts (s.timerStarted pull).outputPeriodStart
  rw [line] at level
  rw [periodStart_slots]
  refine ⟨fun id => ?_, (Nat.sub_le _ _).trans b.2⟩
  cases id with
  | joinFound =>
    simp only [TxSlots.ctl]
    split
    · exact Nat.zero_le _
    · exact b.1 .joinFound
  | level k =>
    simp only [TxSlots.ctl, Four.get_map]
    exact (level k).trans (b.1 (.level k))
  | dump => exact b.1 .dump
  | evict => exact b.1 .evict
  | place => exact b.1 .place
  | presence => exact b.1 .presence
  | report => exact b.1 .report

theorem effect_attemptsBounded {c : Instr} {s t : State} (b : AttemptsBounded s) (effect : Effect c s t) :
    AttemptsBounded t := by
  change s.line.slots.Bounded at b
  change t.line.slots.Bounded
  rcases effect_loud effect with loud | ⟨⟨-, -, -, eases⟩, -⟩
  · cases loud with
    | coldReset => exact empty_bounded
    | strapsTaken => exact b
    | halt => exact empty_bounded
    | configured => exact b.holds _
    | periodStart pull => exact periodStart_bounded b pull
    | dumpTimesOut => exact b.joinFound _
    | attemptStart =>
      obtain ⟨cs, f, a, eq, -, -⟩ := tryBuilds_eq allSlots.length (allSlots.filter s.ready) s
      refine TxSlots.Bounded.eases ?_ (settleSlots_quiet _).1.2.2.2
      rw [eq]
      cases a <;> exact b
    | attemptLost =>
      rcases attemptLost_cases s with ⟨-, eq⟩ | ⟨a, -, ⟨-, eq⟩ | ⟨-, eq⟩⟩ <;> rw [eq]
      · exact b
      · exact lineRestarted_bounded s.ended
      · exact b.eases (mergeFollowOn_eases _ _)
    | brokenOff => exact attemptFailed_bounded b _
    | failed => exact attemptFailed_bounded (s := s.countSignals _ _ _) b _
    | @accepted m msg accepts =>
      obtain ⟨d, e, decided, ended, eq⟩ := acceptedBy_cases s (s.queues m msg) (s.boundaryOf m.boundary) msg
      rw [eq]
      have d_bounded := decided_bounded decided (by rw [(heard_attempt s _ _ msg).2.2]; exact b)
      refine TxSlots.Bounded.eases ?_ (settleSlots_quiet _).1.2.2.2
      cases ended with
      | unsent => exact d_bounded
      | restarted => exact lineRestarted_bounded d
      | done _ _ done => exact slotDone_bounded done (d_bounded.eases (setCtl_eases (Nat.zero_le _)))
    | @applied r t head record =>
      refine TxSlots.Bounded.eases ?_ (dropHead_quiet t).1.2.2.2
      cases record with
      | warmRestart =>
        rw [warmRestart_line]
        split
        · exact b
        · exact lineRestarted_bounded s
      | failDump => exact b.joinFound _
      | installDump => exact b.holds none
  · exact b.eases eases

end Sys2Proof.Machine

/-! A station outside RUN is empty (R5, R37, R107), and what rests on it: the law of the Pending Change Queue and that of UNUSED
channels. -/

namespace Sys2Proof.Machine

/-! ## What a station outside RUN holds nothing of -/

/-- The parts of a state that are empty outside RUN. -/
def HoldsNothing (s : State) : Prop :=
  s.engine.replica = .empty ∧ s.engine.heldCheck = 0 ∧ s.engine.dumpOwed = false ∧ s.engine.witnesses = [] ∧
  s.engine.mismatches = 0 ∧ s.out.pending = [] ∧ s.out.blank = false ∧
  (∀ n, (s.out.chan.get n).plan = none ∧ (s.out.chan.get n).lowCount = 0) ∧
  s.ctl.presence = 0 ∧ s.ctl.silence = []

/-- The engine but for its dump build is emptied, or as it was. -/
theorem HoldsNothing.of_engine {s t : State} (h : HoldsNothing s)
    (engine : t.engine.replica = s.engine.replica ∨ t.engine.replica = .empty)
    (check : t.engine.heldCheck = s.engine.heldCheck ∨ t.engine.heldCheck = 0)
    (owed : t.engine.dumpOwed = s.engine.dumpOwed ∨ t.engine.dumpOwed = false)
    (tally : t.engine.witnesses = s.engine.witnesses ∧ t.engine.mismatches = s.engine.mismatches)
    (out : t.out = s.out) (ctl : t.ctl.presence = s.ctl.presence ∧ t.ctl.silence = s.ctl.silence) : HoldsNothing t := by
  obtain ⟨replica, heldCheck, dumpOwed, witnesses, mismatches, rest⟩ := h
  refine ⟨?_, ?_, ?_, tally.1.trans witnesses, tally.2.trans mismatches, by rw [out, ctl.1, ctl.2]; exact rest⟩
  · rcases engine with eq | eq <;> simp [eq, replica]
  · rcases check with eq | eq <;> simp [eq, heldCheck]
  · rcases owed with eq | eq <;> simp [eq, dumpOwed]

theorem HoldsNothing.of_eq {s t : State} (h : HoldsNothing s) (engine : t.engine = s.engine) (out : t.out = s.out)
    (ctl : t.ctl.presence = s.ctl.presence ∧ t.ctl.silence = s.ctl.silence) : HoldsNothing t :=
  h.of_engine (.inl (by rw [engine])) (.inl (by rw [engine])) (.inl (by rw [engine])) (by rw [engine]; exact ⟨rfl, rfl⟩) out ctl

/-- Engine, output stage and controller as R89, R121 and R158 empty them. -/
theorem HoldsNothing.of_emptied {e : Engine} {o : OutputStage} {t : State} (engine : t.engine = e.emptied)
    (out : t.out = o.emptied) (ctl : t.ctl.presence = 0 ∧ t.ctl.silence = []) : HoldsNothing t := by
  refine ⟨by rw [engine]; rfl, by rw [engine]; rfl, by rw [engine]; rfl, by rw [engine]; rfl, by rw [engine]; rfl,
    by rw [out]; rfl, by rw [out]; rfl, fun n => ?_, ctl⟩
  rw [out, emptied_out_get]
  exact ⟨rfl, rfl⟩

/-! ## The law, in its parts -/

/-- What `EmptyOutsideRun` says besides what is held. -/
structure Placed (s : State) : Prop where
  joinWait : s.ctl.station ≠ .joinWait → s.ctl.joinWait = 0
  build : BuildPlaced s
  found : FoundPlaced s
  presence : PresencePlaced s

theorem emptyOutsideRun_iff (s : State) :
    EmptyOutsideRun s ↔ (s.ctl.station ≠ .run → HoldsNothing s) ∧ Placed s :=
  ⟨fun ⟨nothing, joinWait, build, found, presence⟩ => ⟨nothing, joinWait, build, found, presence⟩,
    fun ⟨nothing, joinWait, build, found, presence⟩ => ⟨nothing, joinWait, build, found, presence⟩⟩

/-- No dump build, no join wait, no FOUND in its slot and no attempt under way. -/
theorem Placed.of_rest {t : State} (joinWait : t.ctl.station ≠ .joinWait → t.ctl.joinWait = 0)
    (build : t.engine.build = none) (found : t.line.slots.joinFoundHolds ≠ some .found)
    (attempt : t.line.attempt = none) : Placed t where
  joinWait := joinWait
  build := by simp [BuildPlaced, build]
  found := fun holds => absurd holds found
  presence := by simp [PresencePlaced, attempt]

theorem PresencePlaced.of_none {t : State} (attempt : t.line.attempt = none) : PresencePlaced t := by
  simp [PresencePlaced, attempt]

theorem FoundPlaced.quiet {s t : State} (h : FoundPlaced s) (q : Quiet s t) : FoundPlaced t := by
  obtain ⟨⟨-, -, -, holds, -⟩, station⟩ := q
  rw [FoundPlaced, holds, station]
  exact h

theorem PresencePlaced.quiet {s t : State} (h : PresencePlaced s) (q : Quiet s t) : PresencePlaced t := by
  obtain ⟨⟨attempt, pending, -, -⟩, station⟩ := q
  rw [PresencePlaced, attempt, pending, station]
  exact h

theorem Placed.quiet {s t : State} (h : Placed s) (q : Quiet s t) (joinWait : t.ctl.joinWait = s.ctl.joinWait)
    (build : t.engine.build.isSome = true → s.engine.build.isSome = true ∨ t.ctl.station = .dumpReceive) : Placed t where
  joinWait := by rw [joinWait, q.2]; exact h.joinWait
  build := fun some => (build some).elim (fun was => q.2.trans (h.build was)) id
  found := h.found.quiet q
  presence := h.presence.quiet q

theorem settleSlots_emptyOutsideRun {s : State} (h : EmptyOutsideRun s) : EmptyOutsideRun s.settleSlots := by
  rw [emptyOutsideRun_iff] at h ⊢
  exact ⟨fun outside => (h.1 outside).of_eq rfl rfl ⟨rfl, rfl⟩, h.2.quiet (settleSlots_quiet s) rfl .inl⟩

theorem dropHead_emptyOutsideRun {s : State} (h : EmptyOutsideRun s) : EmptyOutsideRun s.dropHead := by
  rw [emptyOutsideRun_iff] at h ⊢
  exact ⟨fun outside => (h.1 outside).of_eq rfl rfl ⟨rfl, rfl⟩, h.2.quiet (dropHead_quiet s) rfl .inl⟩

/-! ## Quiet effects -/

theorem rests_emptyOutsideRun {s t : State} (h : EmptyOutsideRun s) (rests : Rests s t) : EmptyOutsideRun t := by
  rw [emptyOutsideRun_iff] at h ⊢
  refine ⟨fun outside => ?_, h.2.quiet rests.quiet (by rw [rests.ctl]) (by rw [rests.engine]; exact .inl)⟩
  rw [rests.ctl] at outside
  exact (h.1 outside).of_eq rests.engine (rests.out outside) (by rw [rests.ctl]; exact ⟨rfl, rfl⟩)

/-- Of the engine a PLACE, JOIN, EVICT or SHED changes replica, check, dump-owed flag and rejected counter. -/
theorem commit_build {f : State → State} (hf : ∀ s, (f s).engine.build = s.engine.build) (s : State) (e : Byte)
    (r : Replica) (touched : List Num4) : (s.commit e r touched f).engine.build = s.engine.build := by
  rw [commit_engine, hf, recorded_engine]
  rfl

theorem handOutcomes_build (os : List (Num4 × PlaceOutcome)) (s : State) :
    (handOutcomes os s).engine.build = s.engine.build := by rw [handOutcomes_engine]

/-- A record applied quietly leaves the join wait, and the dump build but in DUMP-RECEIVE. -/
theorem appliedQuiet_keeps {s t : State} {r : Record} (h : AppliedQuiet s r t) :
    t.ctl.joinWait = s.ctl.joinWait ∧ (s.ctl.station = .run ∧ t.engine.build = s.engine.build ∨
      s.ctl.station = .dumpReceive ∧ t.out = s.out ∧ t.ctl = s.ctl ∧
        t.engine = { s.engine with build := t.engine.build }) := by
  cases h with
  | place run => exact ⟨by simp, .inl ⟨run, commit_build (handOutcomes_build _) _ _ _ _⟩⟩
  | join run =>
    refine ⟨by rw [oweDump_ctl, joined_ctl], .inl ⟨run, ?_⟩⟩
    show (s.joined _ _).engine.build = s.engine.build
    rw [joined_engine]
    rfl
  | joinMismatch run => exact ⟨by simp, .inl ⟨run, by simp [State.oweDump]⟩⟩
  | evict run =>
    exact ⟨by rw [commit_ctl (f := id) (fun _ => rfl)]; rfl, .inl ⟨run, commit_build (f := id) (fun _ => rfl) _ _ _ _⟩⟩
  | @shed e l run =>
    exact ⟨by simp, .inl ⟨run, commit_build (f := handSheds (s.shedOwn l)) (fun _ => by rw [handSheds_engine]) _ _ _ _⟩⟩
  | dumpOpen run => exact ⟨rfl, .inl ⟨run, rfl⟩⟩
  | dumpPart receiving => exact ⟨rfl, .inr ⟨receiving, rfl, rfl, rfl⟩⟩
  | tally run => exact ⟨rfl, .inl ⟨run, rfl⟩⟩
  | scene run => exact ⟨rfl, .inl ⟨run, rfl⟩⟩

theorem appliedQuiet_emptyOutsideRun {s t : State} {r : Record} (h : EmptyOutsideRun s) (applied : AppliedQuiet s r t) :
    EmptyOutsideRun t := by
  rw [emptyOutsideRun_iff] at h ⊢
  have quiet := appliedQuiet_quiet applied
  obtain ⟨joinWait, ⟨run, build⟩ | ⟨receiving, out, ctl, engine⟩⟩ := appliedQuiet_keeps applied
  · exact ⟨fun outside => absurd (quiet.2.trans run) outside, h.2.quiet quiet joinWait (by rw [build]; exact .inl)⟩
  · refine ⟨fun outside => ?_, h.2.quiet quiet joinWait fun _ => .inr (quiet.2.trans receiving)⟩
    refine (h.1 (by rw [← quiet.2]; exact outside)).of_engine ?_ ?_ ?_ ?_ out (by rw [ctl]; exact ⟨rfl, rfl⟩)
    · exact .inl (by rw [engine])
    · exact .inl (by rw [engine])
    · exact .inl (by rw [engine])
    · rw [engine]; exact ⟨rfl, rfl⟩

/-! ## Loud effects -/

theorem halt_emptyOutsideRun (s : State) (cause : HaltCause) : EmptyOutsideRun (s.halt cause) := by
  rw [emptyOutsideRun_iff]
  exact ⟨fun _ => .of_emptied rfl rfl ⟨rfl, rfl⟩, .of_rest (fun _ => rfl) rfl (by simp [State.halt, LineInterface.halted,
    TxSlots.empty]) rfl⟩

theorem reset_emptyOutsideRun (s : State) (cause : HaltCause) : EmptyOutsideRun (s.coldReset cause) := by
  rw [emptyOutsideRun_iff]
  refine ⟨fun _ => ⟨rfl, rfl, rfl, rfl, rfl, rfl, rfl, fun n => ?_, rfl, rfl⟩,
    .of_rest (fun _ => rfl) rfl (by simp [State.coldReset, State.reset, TxSlots.empty]) rfl⟩
  simp [State.coldReset, State.reset, OutChannel.untaken]

theorem warmRestart_ctl (s : State) : s.warmRestart.ctl = s.restartBlocks.ctl := by
  unfold State.warmRestart
  dsimp only
  split <;> rfl

/-- Outside RUN an attempt of the PRESENCE slot waits for the restart to take effect, and so it does under the same attempt. -/
theorem PresencePlaced.outside {s t : State} (h : PresencePlaced s) (outside : s.ctl.station ≠ .run)
    (attempt : t.line.attempt = s.line.attempt) (pending : t.line.restartPending = s.line.restartPending) :
    PresencePlaced t := by
  intro a sending slot
  rw [attempt] at sending
  rw [pending]
  exact .inr ((h a sending slot).resolve_left outside)

theorem lineRestarted_placed {s : State} (attempt : s.line.attempt = none) :
    FoundPlaced s.lineRestarted ∧ PresencePlaced s.lineRestarted :=
  ⟨fun holds => (by cases holds), .of_none attempt⟩

/-- The line interface restarted, the attempt having ended. -/
theorem lineRestarted_emptyOutsideRun {s : State} (h : EmptyOutsideRun s) (attempt : s.line.attempt = none) :
    EmptyOutsideRun s.lineRestarted := by
  rw [emptyOutsideRun_iff] at h ⊢
  obtain ⟨found, presence⟩ := lineRestarted_placed attempt
  exact ⟨fun outside => (h.1 outside).of_eq rfl rfl ⟨rfl, rfl⟩, h.2.joinWait, h.2.build, found, presence⟩

theorem warmRestart_emptyOutsideRun {s : State} (h : EmptyOutsideRun s) (run : s.ctl.station = .run) :
    EmptyOutsideRun s.warmRestart := by
  rw [emptyOutsideRun_iff] at h ⊢
  obtain ⟨-, engine, -⟩ := warmRestart_blocks s
  have ctl := warmRestart_ctl s
  refine ⟨fun _ => .of_emptied engine (warmRestart_out s) (by rw [ctl]; exact ⟨rfl, rfl⟩), fun _ => by rw [ctl]; rfl,
    by simp [BuildPlaced, engine, Engine.emptied], ?found, ?presence⟩
  case found =>
    intro holds
    rw [warmRestart_line] at holds
    split at holds
    · have := h.2.found holds
      simp [run] at this
    · cases holds
  case presence =>
    intro a sending slot
    rw [warmRestart_line] at sending ⊢
    split at sending
    next waits => exact .inr (by rw [if_pos waits])
    next none => exact absurd (by rw [show s.line.attempt = some a from sending]; rfl) none

/-- Return to JOIN-SEND from a state outside RUN. -/
theorem returnToJoinSend_emptyOutsideRun {s : State} (h : EmptyOutsideRun s) (outside : s.ctl.station ≠ .run) :
    EmptyOutsideRun s.returnToJoinSend := by
  rw [emptyOutsideRun_iff] at h ⊢
  exact ⟨fun _ => (h.1 outside).of_engine (.inr rfl) (.inr rfl) (.inl rfl) ⟨rfl, rfl⟩ rfl ⟨rfl, rfl⟩, fun _ => rfl,
    by simp [BuildPlaced, State.returnToJoinSend], fun holds => (by cases holds), h.2.presence.outside outside rfl rfl⟩

theorem failDump_emptyOutsideRun {s : State} (h : EmptyOutsideRun s) (outside : s.ctl.station ≠ .run) :
    EmptyOutsideRun s.failDump := by
  have back := returnToJoinSend_emptyOutsideRun h outside
  rw [emptyOutsideRun_iff] at back ⊢
  exact ⟨fun out => (back.1 out).of_eq rfl rfl ⟨rfl, rfl⟩, back.2.joinWait, back.2.build, back.2.found, back.2.presence⟩

/-- Entry to RUN: nothing is asked to be empty. -/
theorem run_emptyOutsideRun {t : State} (run : t.ctl.station = .run) (joinWait : t.ctl.joinWait = 0)
    (build : t.engine.build = none) (found : t.line.slots.joinFoundHolds = none) : EmptyOutsideRun t := by
  rw [emptyOutsideRun_iff]
  exact ⟨fun outside => absurd run outside, fun _ => joinWait, by simp [BuildPlaced, build], by simp [FoundPlaced, found],
    fun _ _ _ => .inl run⟩

/-! ### Period starts -/

theorem controllerPeriodStart_joinWaitZero {s : State} (joining : s.ctl.station = .joinWait) (zero : s.ctl.joinWait = 0) :
    s.controllerPeriodStart = s := by
  simp [State.controllerPeriodStart, State.joinWaitPeriodStart, State.presencePeriodStart, State.silencePeriodStart,
    joining, zero]

/-- R111, R120, R121: the controller after a period start outside RUN. -/
theorem periodStart_ctl_outside {s : State} (outside : s.ctl.station ≠ .run) (pull : Bool) :
    (s.periodStart pull).ctl =
      if s.ctl.station = .joinWait then
        { s.ctl with
          station := if s.ctl.joinWait = 1 then .foundSend else .joinWait, joinWait := s.ctl.joinWait - 1 }
      else s.ctl := by
  have ctl : ((s.timerStarted pull).outputPeriodStart.touchPeriodStart).ctl = s.ctl := by simp [State.timerStarted]
  rw [periodStart_ctl]
  generalize (s.timerStarted pull).outputPeriodStart.touchPeriodStart = u at ctl
  rw [← ctl] at outside ⊢
  by_cases joining : u.ctl.station = .joinWait
  · rw [if_pos joining]
    by_cases waits : 0 < u.ctl.joinWait
    · rw [controllerPeriodStart_joinWait joining waits]
      by_cases last : u.ctl.joinWait = 1
      · rw [if_pos last, if_pos last, last]
        rfl
      · rw [if_neg last, if_neg last]
        simp only [joining]
    · have zero : u.ctl.joinWait = 0 := by omega
      rw [controllerPeriodStart_joinWaitZero joining zero]
      simp only [zero, ← joining, zero_ne_one, if_false, Nat.zero_sub]
      rw [← zero]
  · rw [controllerPeriodStart_other outside joining, if_neg joining]

theorem periodStart_emptyOutsideRun {s : State} (h : EmptyOutsideRun s) (pull : Bool) :
    EmptyOutsideRun (s.periodStart pull) := by
  rw [emptyOutsideRun_iff] at h ⊢
  obtain ⟨nothing, placed⟩ := h
  have station := periodStart_station s pull
  have run_iff : (s.periodStart pull).ctl.station = .run ↔ s.ctl.station = .run := by
    rw [station]
    split
    next ends => simp [ends.1]
    · rfl
  have slots := periodStart_slots s pull
  obtain ⟨attempt, pending, -⟩ := periodStart_attempt s pull
  refine ⟨fun outside => ?held, ?joinWait, ?build, ?found, ?presence⟩
  case held =>
    have was : s.ctl.station ≠ .run := mt run_iff.mpr outside
    obtain ⟨replica, check, owed, witnesses, mismatches, queue, blank, outs, countdown, silence⟩ := nothing was
    have ctl := periodStart_ctl_outside was pull
    have out := periodStart_out_eq s pull
    rw [if_neg was] at out
    refine ⟨by simp [replica], by simp [check], by simp [owed], by simp [witnesses], by simp [mismatches], ?_, ?_, fun n => ?_, ?_, ?_⟩
    · rw [out]; exact queue
    · rw [out]; exact blank
    · rw [out, clearHolds_get]
      split
      · exact outs n
      · exact outs n
    · rw [ctl]
      split
      · exact countdown
      · exact countdown
    · rw [ctl]
      split
      · exact silence
      · exact silence
  case joinWait =>
    intro other
    by_cases run : s.ctl.station = .run
    · have ctl : ((s.timerStarted pull).outputPeriodStart.touchPeriodStart).ctl = s.ctl := by simp [State.timerStarted]
      rw [periodStart_ctl, (controllerPeriodStart_run (by rw [ctl]; exact run)).1, ctl]
      exact placed.joinWait (by rw [run]; simp)
    · rw [periodStart_ctl_outside run pull] at other ⊢
      split at other
      next joining =>
        rw [if_pos joining]
        by_cases last : s.ctl.joinWait = 1
        · simp [last]
        · simp [last] at other
      next joining =>
        rw [if_neg joining]
        exact placed.joinWait other
  case build =>
    intro some
    rw [State.periodStart_engine] at some
    rw [station, if_neg (by rw [placed.build some]; simp)]
    exact placed.build some
  case found =>
    intro holds
    rw [slots] at holds
    rw [station]
    by_cases ends : s.ctl.station = .joinWait ∧ s.ctl.joinWait = 1
    · rw [if_pos ends]
    · simp only [if_neg ends] at holds ⊢
      exact placed.found holds
  case presence =>
    intro a sending slot
    rw [attempt] at sending
    obtain ⟨b, was, rfl⟩ := Option.map_eq_some_iff.mp sending
    rw [run_iff, pending]
    exact placed.presence b was slot

/-! ### The ends of attempts -/

theorem ended_emptyOutsideRun {s : State} (h : EmptyOutsideRun s) : EmptyOutsideRun s.ended := by
  rw [emptyOutsideRun_iff] at h ⊢
  exact ⟨fun outside => (h.1 outside).of_eq rfl rfl ⟨rfl, rfl⟩, h.2.joinWait, h.2.build, h.2.found, .of_none rfl⟩

/-- A change of the slots that leaves what the JOIN/FOUND slot holds, no attempt being under way. -/
theorem EmptyOutsideRun.slots {s t : State} (h : EmptyOutsideRun s) (engine : t.engine = s.engine) (out : t.out = s.out)
    (ctl : t.ctl = s.ctl) (attempt : t.line.attempt = none)
    (holds : t.line.slots.joinFoundHolds = s.line.slots.joinFoundHolds) : EmptyOutsideRun t := by
  rw [emptyOutsideRun_iff] at h ⊢
  refine ⟨fun outside => ?_, by rw [ctl]; exact h.2.joinWait, ?_, ?_, .of_none attempt⟩
  · rw [ctl] at outside
    exact (h.1 outside).of_eq engine out (by rw [ctl]; exact ⟨rfl, rfl⟩)
  · rw [BuildPlaced, engine, ctl]
    exact h.2.build
  · rw [FoundPlaced, holds, ctl]
    exact h.2.found

/-- R120: a presence countdown is reloaded in RUN. -/
theorem reloadPresence_emptyOutsideRun {s : State} (h : EmptyOutsideRun s) (run : s.ctl.station = .run)
    (attempt : s.line.attempt = none) : EmptyOutsideRun s.reloadPresence := by
  rw [emptyOutsideRun_iff] at h ⊢
  exact ⟨fun outside => absurd run outside, h.2.joinWait, h.2.build, h.2.found, .of_none attempt⟩

theorem abandonSlot_emptyOutsideRun {s : State} (h : EmptyOutsideRun s) (attempt : s.line.attempt = none) (id : SlotId)
    (presence : id = .presence → s.ctl.station = .run) : EmptyOutsideRun (s.abandonSlot id) := by
  have reset : EmptyOutsideRun
      { s with line := { s.line with
          slots := s.line.slots.setCtl id { attempts := 0, held := true }, abandoned := satInc s.line.abandoned } } :=
    h.slots rfl rfl rfl attempt (setCtl_holds _ _ _).1
  unfold State.abandonSlot
  cases id with
  | place => exact h.slots rfl rfl rfl attempt rfl
  | dump =>
    dsimp only
    split
    · rw [emptyOutsideRun_iff] at reset ⊢
      exact ⟨fun outside => (reset.1 outside).of_engine (.inl rfl) (.inl rfl) (.inr rfl) ⟨rfl, rfl⟩ rfl ⟨rfl, rfl⟩,
        reset.2.joinWait, reset.2.build, reset.2.found, reset.2.presence⟩
    · exact h.slots rfl rfl rfl attempt rfl
  | joinFound =>
    dsimp only
    split
    next holds =>
      refine returnToJoinSend_emptyOutsideRun reset ?_
      have station : s.ctl.station = .foundSend := ((emptyOutsideRun_iff s).mp h).2.found holds
      simp [station]
    · exact reset
    · exact reset
  | presence => exact reloadPresence_emptyOutsideRun reset (presence rfl) attempt
  | evict => exact reset
  | report => exact h.slots rfl rfl rfl attempt rfl
  | level k => exact h.slots rfl rfl rfl attempt rfl

theorem failSlot_emptyOutsideRun {s : State} (h : EmptyOutsideRun s) (attempt : s.line.attempt = none) (id : SlotId)
    (hold : Bool) (presence : id = .presence → s.ctl.station = .run) : EmptyOutsideRun (s.failSlot id hold) := by
  unfold State.failSlot
  dsimp only
  split
  · exact abandonSlot_emptyOutsideRun h attempt id presence
  · exact h.slots rfl rfl rfl attempt ((mergeFollowOn_eases _ id).1.trans (setCtl_holds _ _ _).1)

/-- An attempt whose outcome touches its slot, and is the PRESENCE slot's, ends in RUN. -/
theorem presence_run {s : State} {a : Attempt} (h : EmptyOutsideRun s) (sending : s.line.attempt = some a)
    (rested : s.line.restartPending = false) (slot : a.slot = .presence) : s.ctl.station = .run := by
  have placed := ((emptyOutsideRun_iff s).mp h).2.presence a sending slot
  simpa [rested] using placed

theorem attemptFailed_emptyOutsideRun {s : State} (h : EmptyOutsideRun s) (hold : Bool) :
    EmptyOutsideRun (s.attemptFailed hold) := by
  rcases attemptFailed_cases s hold with ⟨-, eq⟩ | ⟨a, sending, ⟨-, eq⟩ | ⟨rested, eq⟩⟩ <;> rw [eq]
  · exact h
  · exact lineRestarted_emptyOutsideRun (ended_emptyOutsideRun h) rfl
  · exact settleSlots_emptyOutsideRun
      (failSlot_emptyOutsideRun (ended_emptyOutsideRun h) rfl a.slot hold fun slot => presence_run (s := s) h sending rested slot)

theorem attemptLost_emptyOutsideRun {s : State} (h : EmptyOutsideRun s) : EmptyOutsideRun s.attemptLost := by
  rcases attemptLost_cases s with ⟨-, eq⟩ | ⟨a, -, ⟨-, eq⟩ | ⟨-, eq⟩⟩ <;> rw [eq]
  · exact h
  · exact lineRestarted_emptyOutsideRun (ended_emptyOutsideRun h) rfl
  · exact h.slots rfl rfl rfl rfl (mergeFollowOn_eases _ _).1

/-! ### Acceptance -/

theorem heard_emptyOutsideRun {s : State} (h : EmptyOutsideRun s) (queued boundary : Bool) (m : Message) :
    EmptyOutsideRun (s.heard queued boundary m) := by
  obtain ⟨attempt, -, slots⟩ := heard_attempt s queued boundary m
  rw [emptyOutsideRun_iff] at h ⊢
  refine ⟨fun outside => ?_, ?_, ?_, ?_, .of_none attempt⟩
  · rw [heard_ctl] at outside
    have nothing := h.1 outside
    refine nothing.of_eq (heard_engine _ _ _ _) (heard_out _ _ _ _) ?_
    obtain ⟨-, -, -, -, -, -, -, -, -, silence⟩ := nothing
    rw [heard_ctl, silence]
    exact ⟨rfl, by simp [Controller.heardFrom, silence]⟩
  · rw [heard_ctl]
    exact h.2.joinWait
  · rw [BuildPlaced, heard_engine, heard_ctl]
    exact h.2.build
  · rw [FoundPlaced, slots, heard_ctl]
    exact h.2.found

theorem decided_emptyOutsideRun {s t : State} (h : EmptyOutsideRun s) (attempt : s.line.attempt = none)
    (decided : Decided s t) : EmptyOutsideRun t := by
  have parts := (emptyOutsideRun_iff s).mp h
  cases decided with
  | stands => exact h
  | receives source f joining =>
    rw [emptyOutsideRun_iff]
    have outside : s.ctl.station ≠ .run := by rcases joining with eq | eq <;> simp [eq]
    exact ⟨fun _ => (parts.1 outside).of_engine (.inl rfl) (.inl rfl) (.inl rfl) ⟨rfl, rfl⟩ rfl ⟨rfl, rfl⟩, fun _ => rfl,
      fun _ => rfl, fun holds => (by cases holds), .of_none attempt⟩
  | returns joining =>
    exact returnToJoinSend_emptyOutsideRun h (by rcases joining with eq | eq <;> simp [eq])
  | fails receiving => exact failDump_emptyOutsideRun h (by simp [receiving])
  | closes receiving =>
    rw [emptyOutsideRun_iff]
    exact ⟨fun outside => (parts.1 outside).of_engine (.inl rfl) (.inl rfl) (.inl rfl) ⟨rfl, rfl⟩ rfl ⟨rfl, rfl⟩,
      parts.2.joinWait, fun _ => receiving, parts.2.found, .of_none attempt⟩

/-- A station in RUN decides nothing at an acceptance. -/
theorem decided_run {s t : State} (run : s.ctl.station = .run) (decided : Decided s t) : t = s := by
  cases decided with
  | stands => rfl
  | receives source f joining => simp [run] at joining
  | returns joining => simp [run] at joining
  | fails receiving => simp [run] at receiving
  | closes receiving => simp [run] at receiving

theorem slotDone_emptyOutsideRun {s t : State} {a : Attempt} (h : EmptyOutsideRun s) (attempt : s.line.attempt = none)
    (presence : a.slot = .presence → s.ctl.station = .run) (done : SlotDone s a t) : EmptyOutsideRun t := by
  have parts := (emptyOutsideRun_iff s).mp h
  cases done with
  | stands => exact h
  | joins slot station =>
    rw [emptyOutsideRun_iff]
    exact ⟨fun _ => (parts.1 (by simp [station])).of_eq rfl rfl ⟨rfl, rfl⟩, fun other => absurd rfl other,
      fun some => (by have := parts.2.build some; simp [station] at this), fun holds => (by cases holds), .of_none attempt⟩
  | founds => exact run_emptyOutsideRun rfl rfl rfl rfl
  | reloads slot => exact reloadPresence_emptyOutsideRun h (presence slot) attempt
  | dumps => exact h.slots rfl rfl rfl attempt rfl
  | reports => exact h.slots rfl rfl rfl attempt rfl
  | levels => exact h.slots rfl rfl rfl attempt rfl

theorem acceptedBy_emptyOutsideRun {s : State} (h : EmptyOutsideRun s) (queued boundary : Bool) (m : Message) :
    EmptyOutsideRun (s.acceptedBy queued boundary m) := by
  obtain ⟨d, e, decided, ended, eq⟩ := acceptedBy_cases s queued boundary m
  rw [eq]
  have attempt : d.line.attempt = none := (decided_line decided).1.trans (heard_attempt s queued boundary m).1
  have d_empty := decided_emptyOutsideRun (heard_emptyOutsideRun h queued boundary m) (heard_attempt s _ _ _).1 decided
  refine settleSlots_emptyOutsideRun ?_
  cases ended with
  | unsent => exact d_empty
  | restarted => exact lineRestarted_emptyOutsideRun d_empty attempt
  | @done a _ sending rested done =>
    have counted : EmptyOutsideRun (d.counted a.slot) := d_empty.slots rfl rfl rfl attempt (setCtl_holds _ _ _).1
    refine slotDone_emptyOutsideRun counted attempt (fun slot => ?_) done
    have run := presence_run h sending rested slot
    rw [decided_run (by rw [heard_ctl]; exact run) decided]
    show (s.heard queued boundary m).ctl.station = .run
    rw [heard_ctl]
    exact run

theorem tryBuilds_emptyOutsideRun {s : State} (h : EmptyOutsideRun s) :
    EmptyOutsideRun (State.tryBuilds allSlots.length (allSlots.filter s.ready) s) := by
  obtain ⟨cs, f, a, eq, -, slot⟩ := tryBuilds_eq allSlots.length (allSlots.filter s.ready) s
  rw [eq]
  rw [emptyOutsideRun_iff] at h ⊢
  cases a with
  | none =>
    exact ⟨fun outside => (h.1 outside).of_eq rfl rfl ⟨rfl, rfl⟩, h.2.joinWait, h.2.build, h.2.found, h.2.presence⟩
  | some a =>
    refine ⟨fun outside => (h.1 outside).of_eq rfl rfl ⟨rfl, rfl⟩, h.2.joinWait, h.2.build, h.2.found, ?_⟩
    rintro b ⟨rfl⟩ isPresence
    have ready := List.of_mem_filter (slot a rfl).1
    rw [isPresence] at ready
    simp only [State.ready, State.hasWork, Bool.and_eq_true, beq_iff_eq] at ready
    exact .inl ready.1.1

theorem loud_emptyOutsideRun {c : Instr} {s t : State} (h : EmptyOutsideRun s) (loud : Loud c s t) : EmptyOutsideRun t := by
  have parts := (emptyOutsideRun_iff s).mp h
  cases loud with
  | coldReset => exact reset_emptyOutsideRun _ _
  | strapsTaken => exact h
  | halt => exact halt_emptyOutsideRun _ _
  | configured read loading =>
    rw [emptyOutsideRun_iff]
    have outside : s.ctl.station ≠ .run := by simp [loading]
    obtain ⟨replica, check, owed, witnesses, mismatches, queue, blank, outs, countdown, silence⟩ := parts.1 outside
    refine ⟨fun _ => ⟨replica, check, owed, witnesses, mismatches, queue, blank, fun n => ?_, countdown, silence⟩,
      fun _ => parts.2.joinWait (by simp [loading]), fun some => ?_, fun holds => (by cases holds),
      parts.2.presence.outside outside rfl rfl⟩
    · simpa [State.configure, OutputStage.configure, OutChannel.configure] using outs n
    · have := parts.2.build some
      rw [loading] at this
      cases this
  | periodStart pull => exact periodStart_emptyOutsideRun h pull
  | dumpTimesOut receiving => exact failDump_emptyOutsideRun (s := s.lineAtRest none) h (by simp [State.lineAtRest, receiving])
  | attemptStart => exact settleSlots_emptyOutsideRun (tryBuilds_emptyOutsideRun h)
  | attemptLost => exact attemptLost_emptyOutsideRun h
  | brokenOff => exact attemptFailed_emptyOutsideRun h _
  | failed => exact attemptFailed_emptyOutsideRun (s := s.countSignals _ _ _) h _
  | accepted => exact acceptedBy_emptyOutsideRun h _ _ _
  | applied head record =>
    refine dropHead_emptyOutsideRun ?_
    cases record with
    | warmRestart run => exact warmRestart_emptyOutsideRun h run
    | failDump receiving => exact failDump_emptyOutsideRun h (by simp [receiving])
    | installDump => exact run_emptyOutsideRun rfl rfl rfl rfl

theorem effect_emptyOutsideRun {c : Instr} {s t : State} (h : EmptyOutsideRun s) (effect : Effect c s t) :
    EmptyOutsideRun t := by
  rcases effect_cases effect with loud | rests | ⟨r, u, -, applied, rfl⟩
  · exact loud_emptyOutsideRun h loud
  · exact rests_emptyOutsideRun h rests
  · exact dropHead_emptyOutsideRun (appliedQuiet_emptyOutsideRun h applied)

/-- Settles O52: what is quiet leaves the empty parts empty, and what is not enters RUN, empties them, or leaves them. -/
theorem emptyOutsideRunKept : Obligations.EmptyOutsideRunKept :=
  fun _ _ => step_keeps (P := EmptyOutsideRun) (fun _ _ h => h) (fun _ _ _ h effect => effect_emptyOutsideRun h effect)

end Sys2Proof.Machine

/-! The Pending Change Queue in RUN (R36, R37), and UNUSED channels, which are neither placed nor given a change (R151, R153). -/

namespace Sys2Proof.Machine

/-! ## What an effect adds to the Pending Change Queue -/

theorem blankIfOverdue_pending (s : State) (e : Byte) : (s.blankIfOverdue e).out.pending = s.out.pending := by
  unfold State.blankIfOverdue
  split <;> rfl

theorem recorded_pending (s : State) (e : Byte) (r : Replica) (touched : List Num4) :
    (s.recorded e r touched).out.pending =
      (({ s with engine := s.engine.recount r } : State).addPendings (s.changePeriod e) touched).out.pending :=
  blankIfOverdue_pending _ _

/-- R63 step 3: what own changes are entered under: the stamp of a pending record, or the next period. -/
theorem changePeriod_near {s : State} {e : Byte} (near : stampCase s.timer.period e ≠ .far) :
    1 ≤ forward s.timer.period (s.changePeriod e) ∧ forward s.timer.period (s.changePeriod e) ≤ 4 := by
  have next : forward s.timer.period (s.timer.period + 1) = 1 := by
    simp [forward]
  unfold State.changePeriod
  cases stamp : stampCase s.timer.period e with
  | overdue => simp only [next]; omega
  | far => exact absurd stamp near
  | pending =>
    simp only [stampCase] at stamp
    split at stamp
    · assumption
    · split at stamp <;> cases stamp

/-- What is pending after a record: what was, changes under a period at distance 1..4, or nothing new. -/
def PendingGrows (s t : State) : Prop :=
  t.out.pending = s.out.pending ∨
    ∃ (u : State) (e : Byte) (touched : List Num4), u.out.pending = s.out.pending ∧ u.chans = s.chans ∧
      t.out.pending = (u.addPendings e touched).out.pending ∧
      1 ≤ forward s.timer.period e ∧ forward s.timer.period e ≤ 4

theorem commit_pendingGrows {f : State → State} (hf : ∀ s, (f s).out = s.out) (s : State) {e : Byte} (r : Replica)
    (touched : List Num4) (near : stampCase s.timer.period e ≠ .far) : PendingGrows s (s.commit e r touched f) := by
  refine .inr ⟨{ s with engine := s.engine.recount r }, s.changePeriod e, touched, rfl, rfl, ?_, changePeriod_near near⟩
  rw [commit_out hf, recorded_pending]

theorem appliedQuiet_pendingGrows {s t : State} {r : Record} (h : AppliedQuiet s r t) :
    PendingGrows s t ∧ t.timer = s.timer := by
  cases h with
  | place run near => exact ⟨commit_pendingGrows (handOutcomes_out _) s _ _ near, by simp⟩
  | @join e run near =>
    exact ⟨commit_pendingGrows (f := id) (fun _ => rfl) s (s.engine.replica.joined r.source) (s.joinTouched r.source) near,
      by simp⟩
  | joinMismatch => exact ⟨.inl (blankIfOverdue_pending s _), by simp⟩
  | @evict e ps run near =>
    exact ⟨commit_pendingGrows (f := id) (fun _ => rfl) (s.pruned (s.evictedReplica ps).roster) (s.evictedReplica ps) [] near,
      by rw [commit_timer (f := id) (fun _ => rfl), pruned_timer]⟩
  | shed run near => exact ⟨commit_pendingGrows (handSheds_out _) s _ _ near, by simp⟩
  | dumpOpen => exact ⟨.inl rfl, rfl⟩
  | dumpPart => exact ⟨.inl rfl, rfl⟩
  | tally => exact ⟨.inl rfl, rfl⟩
  | scene => exact ⟨.inl rfl, rfl⟩

/-- R87: the engine with the replica `r` and its check. -/
def State.withReplica (s : State) (r : Replica) : State :=
  { s with engine := { s.engine with replica := r, heldCheck := stateCheck r } }

theorem installDump_eq (s : State) (b : DumpBuild) :
    s.installDump b =
      ((s.withReplica b.replica).addPendings (s.timer.period + 1)
        (ownChannels s.own (fun _ => true) b.replica.claims)).enterRun := rfl

theorem installDump_pending (s : State) (b : DumpBuild) :
    (s.installDump b).out.pending =
      ((s.withReplica b.replica).addPendings (s.timer.period + 1)
        (ownChannels s.own (fun _ => true) b.replica.claims)).out.pending := rfl

/-! ## The law in RUN -/

/-- R36: distances of 1..4 from `period`, and one entry per (channel, e). -/
def QueueLaw (period : Byte) (q : List PendingChange) : Prop :=
  (∀ x ∈ q, 1 ≤ forward period x.e ∧ forward period x.e ≤ 4) ∧
    q.Pairwise fun a b => a.channel ≠ b.channel ∨ a.e ≠ b.e

theorem QueueLaw.nil (period : Byte) : QueueLaw period [] := ⟨by simp, .nil⟩

theorem QueueLaw.grows {s t : State} (h : QueueLaw s.timer.period s.out.pending) (grows : PendingGrows s t)
    (timer : t.timer.period = s.timer.period) : QueueLaw t.timer.period t.out.pending := by
  rw [timer]
  rcases grows with eq | ⟨u, e, touched, pending, -, eq, near⟩ <;> rw [eq]
  · exact h
  · refine ⟨fun x hx => ?_, addPendings_pairwise (pending ▸ h.2)⟩
    rcases mem_addPendings hx with old | ⟨-, -, under, -⟩
    · exact h.1 x (pending ▸ old)
    · rw [under]
      exact near

/-- R26: a step of the period number brings what comes later one nearer. -/
theorem forward_next {p e : Byte} (h : 1 ≤ forward p e) : forward (p + 1) e = forward p e - 1 := by
  simp only [forward] at h ⊢
  bv_omega

theorem QueueLaw.periodStart {p : Byte} {q : List PendingChange} (h : QueueLaw p q) :
    QueueLaw (p + 1) (q.filter fun x => x.e != p + 1) := by
  refine ⟨fun x hx => ?_, h.2.filter _⟩
  obtain ⟨mem, ne⟩ := List.mem_filter.mp hx
  obtain ⟨lo, hi⟩ := h.1 x mem
  have nearer := forward_next lo
  have later : forward (p + 1) x.e ≠ 0 := by
    intro zero
    have eq : x.e = p + 1 := by
      simp only [forward] at zero
      bv_omega
    simp [eq] at ne
  omega

theorem periodStart_pending (s : State) (pull : Bool) :
    (s.periodStart pull).out.pending =
      if s.ctl.station = .run then s.out.pending.filter (fun x => x.e != s.timer.period + 1) else s.out.pending := by
  rw [periodStart_out_eq]
  split <;> rfl

theorem acceptedBy_out (s : State) (queued boundary : Bool) (m : Message) :
    (s.acceptedBy queued boundary m).out = s.out := by
  unfold State.acceptedBy
  cases s.line.attempt <;> simp [State.ownEnd]

theorem attemptEnd_timer_out (s : State) (hold : Bool) :
    (s.attemptFailed hold).timer = s.timer ∧ (s.attemptFailed hold).out = s.out := ⟨by simp, by simp⟩

/-- An acceptance in RUN leaves the timer and the station state. -/
theorem acceptedBy_run {s : State} (run : s.ctl.station = .run) (queued boundary : Bool) (m : Message) :
    (s.acceptedBy queued boundary m).timer = s.timer := by
  obtain ⟨d, e, decided, ended, eq⟩ := acceptedBy_cases s queued boundary m
  have station : (s.heard queued boundary m).ctl.station = .run := by rw [heard_ctl]; exact run
  have d_eq := decided_run station decided
  subst d_eq
  have timer : (s.heard queued boundary m).timer = s.timer := by
    rw [heard_timer]
    simp [run, StationState.adopts]
  rw [eq, State.settleSlots_timer]
  cases ended with
  | unsent => exact timer
  | restarted => exact timer
  | done _ _ done =>
    cases done with
    | founds slot founding => rw [show (State.counted _ _).ctl.station = _ from station] at founding; cases founding
    | _ => exact timer

theorem loud_pendingLaw {c : Instr} {s t : State} (empty : EmptyOutsideRun s) (law : PendingLaw s) (loud : Loud c s t) :
    PendingLaw t := by
  have parts := (emptyOutsideRun_iff s).mp empty
  have still : ∀ {t : State}, t.out.pending = s.out.pending →
      (s.ctl.station = .run → t.timer.period = s.timer.period) → PendingLaw t := by
    intro t pending period _
    by_cases was : s.ctl.station = .run
    · rw [period was, pending]
      exact law was
    · obtain ⟨-, -, -, -, -, none, -⟩ := parts.1 was
      rw [pending, none]
      exact QueueLaw.nil _
  cases loud with
  | coldReset => intro run; cases run
  | strapsTaken => exact law
  | halt => intro run; cases run
  | configured => intro run; cases run
  | periodStart pull =>
    intro run
    rw [periodStart_station] at run
    split at run
    · cases run
    · rw [periodStart_pending, if_pos run, periodStart_timer]
      exact QueueLaw.periodStart (law run)
  | dumpTimesOut => intro run; cases run
  | attemptStart =>
    obtain ⟨cs, f, a, eq, -, -⟩ := tryBuilds_eq allSlots.length (allSlots.filter s.ready) s
    rw [eq, withAttempt_frame]
    exact still rfl fun _ => rfl
  | attemptLost => exact still (by simp) (by simp)
  | brokenOff => exact still (by simp) (by simp)
  | failed => exact still (by simp) (by simp)
  | accepted => exact still (by rw [acceptedBy_out]) fun run => by rw [acceptedBy_run run]
  | @applied r t head record =>
    cases record with
    | warmRestart =>
      intro run
      rw [State.dropHead_ctl, warmRestart_ctl] at run
      cases run
    | failDump => intro run; cases run
    | @installDump b0 p receiving =>
      intro _
      obtain ⟨-, -, -, -, -, none, -⟩ := parts.1 (by simp [receiving])
      have nothing : QueueLaw s.timer.period s.out.pending := none ▸ QueueLaw.nil _
      have next : forward s.timer.period (s.timer.period + 1) = 1 := by simp [forward]
      refine nothing.grows (.inr ⟨s.withReplica _, s.timer.period + 1, _, rfl, rfl, installDump_pending s _, ?_⟩) rfl
      omega

theorem effect_pendingLaw {c : Instr} {s t : State} (empty : EmptyOutsideRun s) (law : PendingLaw s)
    (effect : Effect c s t) : PendingLaw t := by
  rcases effect_cases effect with loud | rests | ⟨r, u, -, applied, rfl⟩
  · exact loud_pendingLaw empty law loud
  · rw [PendingLaw, rests.ctl, rests.pending, rests.period]
    exact law
  · intro run
    rw [State.dropHead_ctl, (appliedQuiet_quiet applied).2] at run
    obtain ⟨grows, timer⟩ := appliedQuiet_pendingGrows applied
    exact QueueLaw.grows (t := u) (law run) grows (by rw [timer])

/-! ## O54: the bounds of the queues -/

/-- R36: one entry per (channel, e) at 4 distances leaves room for 16. -/
theorem queueLaw_length {p : Byte} {q : List PendingChange} (h : QueueLaw p q) : q.length ≤ 16 := by
  let key : PendingChange → Num4 × Fin 5 := fun x => (x.channel, Fin.ofNat 5 (forward p x.e))
  have inside : ∀ y ∈ q.map key, y ∈ ((Finset.univ : Finset Num4) ×ˢ ({1, 2, 3, 4} : Finset (Fin 5))).toList := by
    intro y hy
    obtain ⟨x, hx, rfl⟩ := List.mem_map.mp hy
    obtain ⟨lo, hi⟩ := h.1 x hx
    have : Fin.ofNat 5 (forward p x.e) ∈ ({1, 2, 3, 4} : Finset (Fin 5)) := by
      generalize forward p x.e = d at lo hi
      interval_cases d <;> decide
    simpa [key] using this
  have distinct : (q.map key).Nodup := by
    rw [List.Nodup, List.pairwise_map]
    refine h.2.imp_of_mem fun {a b} ha hb differ eq => ?_
    obtain ⟨channel, distance⟩ := Prod.mk.injEq .. ▸ eq
    rcases differ with c | e
    · exact c channel
    · obtain ⟨-, ha⟩ := h.1 a ha
      obtain ⟨-, hb⟩ := h.1 b hb
      have same : forward p a.e = forward p b.e := by
        have := congrArg Fin.val distance
        simp only [Fin.ofNat] at this
        omega
      apply e
      simp only [forward] at same
      bv_omega
  calc q.length = (q.map key).length := (List.length_map _).symm
    _ ≤ _ := (List.subperm_of_subset distinct inside).length_le
    _ = 16 := by simp

/-- Settles O54: the queues and counts under each effect, and the entries of the Pending Change Queue told apart by channel and
distance. -/
theorem queuesKept : Obligations.QueuesKept := by
  refine ⟨fun _ _ => step_keeps (P := QueueBounded) (fun _ _ h => h) fun _ _ _ h effect => effect_queueBounded h effect,
    fun _ _ => step_keeps (P := AttemptsBounded) (fun _ _ h => h) fun _ _ _ h effect => effect_attemptsBounded h effect,
    fun s t empty law hs => ?_, fun s law run => queueLaw_length (law run)⟩
  have both := step_keeps (P := fun s => EmptyOutsideRun s ∧ PendingLaw s) (fun _ _ h => h)
    (fun _ _ _ h effect => ⟨effect_emptyOutsideRun h.1 effect, effect_pendingLaw h.1 h.2 effect⟩) ⟨empty, law⟩ hs
  exact both.2

/-! ## UNUSED channels -/

/-- No effect but a cold reset and the end of LOADING makes a channel UNUSED. -/
theorem effect_unused {c : Instr} {s t : State} (h : Effect c s t) :
    (∃ n cause, t = ({ s with freeIndex := n } : State).coldReset cause) ∨
    (∃ image, s.ctl.station = .loading ∧ t = s.configure image) ∨
    ∀ n, (t.chans.get n).state = .unused → (s.chans.get n).state = .unused := by
  rcases effect_chans h with ⟨n, cause, -, eq⟩ | ⟨image, -, loading, -, eq⟩ | ⟨n, high, rfl⟩ | move
  · exact .inl ⟨n, cause, eq⟩
  · exact .inr (.inl ⟨image, loading, eq⟩)
  · refine .inr (.inr fun j unused => ?_)
    rcases sample_cases s n high with ⟨count, eq⟩ | ⟨-, -, eq⟩ <;> rw [eq] at unused
    · exact unused
    · rw [State.settleSlots_chans, reportOpen_chans, Four.get_set] at unused
      split at unused
      next same =>
        subst same
        unfold Channel.opened at unused
        split at unused
        · assumption
        · cases unused
      · exact unused
  · exact .inr (.inr fun n => (move.2 n).state.1)

/-- Every placement in the Drive Plan after an effect was there before, or comes from a pending change. -/
theorem effect_plan {c : Instr} {s t : State} (h : Effect c s t) :
    (∃ n cause, t = ({ s with freeIndex := n } : State).coldReset cause) ∨
    (∃ image, s.ctl.station = .loading ∧ t = s.configure image) ∨
    ∀ n, (∀ x ∈ s.out.pending, x.channel ≠ n) →
      (t.out.chan.get n).plan = (s.out.chan.get n).plan ∨ (t.out.chan.get n).plan = none := by
  rcases effect_outs h with ⟨n, cause, -, eq⟩ | ⟨image, -, loading, eq⟩ | ⟨pull, rfl⟩ | ⟨n, high, rfl⟩ | keeps
  · exact .inl ⟨n, cause, eq⟩
  · exact .inr (.inl ⟨image, loading, eq⟩)
  · refine .inr (.inr fun n none => .inl ?_)
    rw [periodStart_out_eq, clearHolds_get]
    have plan : ∀ o : OutputStage,
        (o = s.out ∨ o = s.out.periodStart (s.timer.period + 1) (lateAt (s.timer.period + 1) s.line.inbound)) →
        (o.chan.get n).plan = (s.out.chan.get n).plan := by
      rintro o (rfl | rfl)
      · rfl
      · exact congrArg OutChannel.plan (applyPendings_other (fun x hx => none x (List.mem_filter.mp hx).1) _)
    have kept := plan (if s.ctl.station = .run then
        s.out.periodStart (s.timer.period + 1) (lateAt (s.timer.period + 1) s.line.inbound) else s.out)
      (by split <;> simp)
    split <;> exact kept
  · refine .inr (.inr fun j _ => .inl ?_)
    rcases sample_cases s n high with ⟨count, eq⟩ | ⟨-, -, eq⟩ <;> rw [eq]
    · simp only [State.setLowCount, Four.get_set]
      split
      next same => rw [same]
      · rfl
    · rw [State.settleSlots_out, reportOpen_out_get]
      split
      next same => rw [same]
      · rfl
  · exact .inr (.inr fun n _ => (keeps.2 n).2.2)

/-- What is pending after an effect was pending before, or is a change of a channel that is not UNUSED. -/
theorem effect_pending {c : Instr} {s t : State} (h : Effect c s t) :
    ∀ x ∈ t.out.pending, x ∈ s.out.pending ∨ (s.chans.get x.channel).state ≠ .unused := by
  have same : ∀ {t : State}, t.out.pending = s.out.pending →
      ∀ x ∈ t.out.pending, x ∈ s.out.pending ∨ (s.chans.get x.channel).state ≠ .unused :=
    fun eq x hx => .inl (eq ▸ hx)
  have emptied : ∀ {t : State}, t.out.pending = [] →
      ∀ x ∈ t.out.pending, x ∈ s.out.pending ∨ (s.chans.get x.channel).state ≠ .unused :=
    fun eq x hx => by simp [eq] at hx
  rcases effect_cases h with loud | rests | ⟨r, u, -, applied, rfl⟩
  · cases loud with
    | coldReset => exact emptied rfl
    | strapsTaken => exact same rfl
    | halt => exact emptied rfl
    | configured => exact same rfl
    | periodStart pull =>
      rw [periodStart_pending]
      split
      · exact fun x hx => .inl (List.mem_filter.mp hx).1
      · exact fun x hx => .inl hx
    | dumpTimesOut => exact same rfl
    | attemptStart =>
      obtain ⟨cs, f, a, eq, -, -⟩ := tryBuilds_eq allSlots.length (allSlots.filter s.ready) s
      rw [eq, withAttempt_frame]
      exact same rfl
    | attemptLost => exact same (by simp)
    | brokenOff => exact same (by simp)
    | failed => exact same (by simp)
    | accepted => exact same (by rw [acceptedBy_out])
    | @applied r t head record =>
      cases record with
      | warmRestart => exact emptied (by rw [State.dropHead_out, warmRestart_out]; rfl)
      | failDump => exact same rfl
      | installDump =>
        intro x hx
        rcases mem_addPendings hx with old | ⟨-, used, -⟩
        · exact .inl old
        · exact .inr used
  · exact same rests.pending
  · obtain ⟨grows, -⟩ := appliedQuiet_pendingGrows applied
    rcases grows with eq | ⟨v, e, touched, pending, chans, eq, -⟩
    · exact same eq
    · intro x hx
      rw [State.dropHead_out, eq] at hx
      rcases mem_addPendings hx with old | ⟨-, used, -⟩
      · exact .inl (pending ▸ old)
      · exact .inr (chans ▸ used)

theorem effect_unusedUndriven {c : Instr} {s t : State} (empty : EmptyOutsideRun s) (h : UnusedUndriven s)
    (effect : Effect c s t) : UnusedUndriven t := by
  have fresh : ∀ {u : State}, u.out.pending = [] → (∀ n, (u.out.chan.get n).plan = none) → UnusedUndriven u :=
    fun none plan n _ => ⟨plan n, by simp [none]⟩
  have reset : ∀ n cause, UnusedUndriven (({ s with freeIndex := n } : State).coldReset cause) := by
    refine fun n cause => fresh rfl fun j => ?_
    simp [State.coldReset, State.reset, OutChannel.untaken]
  have configured : ∀ image, s.ctl.station = .loading → UnusedUndriven (s.configure image) := by
    intro image loading
    obtain ⟨-, -, -, -, -, none, -, plan, -⟩ := ((emptyOutsideRun_iff s).mp empty).1 (by simp [loading])
    exact fresh none fun j => by simpa [State.configure, OutputStage.configure, OutChannel.configure] using (plan j).1
  rcases effect_unused effect with ⟨n, cause, rfl⟩ | ⟨image, loading, rfl⟩ | was
  · exact reset n cause
  · exact configured image loading
  rcases effect_plan effect with ⟨n, cause, rfl⟩ | ⟨image, loading, rfl⟩ | plan
  · exact reset n cause
  · exact configured image loading
  intro n unused
  obtain ⟨unplaced, unqueued⟩ := h n (was n unused)
  refine ⟨?_, fun x hx channel => ?_⟩
  · rcases plan n unqueued with eq | eq
    · rw [eq, unplaced]
    · exact eq
  · rcases effect_pending effect x hx with old | used
    · exact unqueued x old channel
    · exact used (channel ▸ was n unused)

/-- Settles O55: the moves of a channel keep its law, and only a channel that is not UNUSED is given a change. -/
theorem channelLawKept : Obligations.ChannelLawKept := by
  refine ⟨fun _ _ => step_keeps (P := ChannelLaw) (fun _ _ h => h) fun _ _ _ h effect => effect_channelLaw h effect,
    fun s t empty law hs => ?_, fun s n law unused => outActive_unused law unused⟩
  have both := step_keeps (P := fun s => EmptyOutsideRun s ∧ UnusedUndriven s) (fun _ _ h => h)
    (fun _ _ _ h effect => ⟨effect_emptyOutsideRun h.1 effect, effect_unusedUndriven h.1 h.2 effect⟩) ⟨empty, law⟩ hs
  exact both.2

end Sys2Proof.Machine

/-! The laws of the replica and of a dump build under the operations of the engine: the Slot Map within the budget (R9), the Roster
and the Claim List (R7, R11). -/

namespace Sys2Proof.Machine

/-! ## The Slot Map within the budget -/

/-- R4: a lower shed level gives no smaller budget. -/
theorem effectiveBudget_le {budget : Nat} {low high : Num4} (h : low.val ≤ high.val) :
    effectiveBudget budget high ≤ effectiveBudget budget low := by
  match low, high with
  | 0, 0 | 1, 1 | 2, 2 | 3, 3 => exact le_rfl
  | 0, 1 | 0, 2 | 0, 3 | 1, 2 | 1, 3 | 2, 3 => simp only [effectiveBudget]; omega
  | 1, 0 | 2, 0 | 2, 1 | 3, 0 | 3, 1 | 3, 2 => exact absurd h (by decide)

theorem MapWithin.mono {b b' : Nat} {m : List Nat} (h : MapWithin b m) (le : b ≤ b') : MapWithin b' m :=
  fun k hk => (h k hk).trans le

/-- R10: units taken out of a map leave it within what it was within. -/
theorem MapWithin.removeWhere {budget : Nat} {r : Replica} (p : Claim → Bool) (h : MapWithin budget r.slotMap) :
    MapWithin budget (r.removeWhere p).slotMap := fun k hk => (occupancy_removeWhere_le r p k).trans (h k hk)

/-- R10: what a slot holds once the entries that satisfy `p` are gone. -/
theorem occupancy_removeWhere (r : Replica) (p : Claim → Bool) (k : Nat) :
    occupancy (r.removeWhere p).slotMap k = occupancy r.slotMap k - claimedAt (r.claims.filter p) k :=
  occupancy_subAll _ _ _

/-- R7: the entry found for (station, channel) is among those removed for it. -/
theorem claimOf_le_claimedAt (cs : List Claim) (st : Nat) (ch : Num4) (k : Nat) :
    claimedAt (claimOf cs st ch).toList k ≤ claimedAt (cs.filter (Claim.isFor st ch)) k := by
  induction cs with
  | nil => exact le_rfl
  | cons c cs ih =>
    by_cases found : c.isFor st ch = true
    · have first : claimOf (c :: cs) st ch = some c := List.find?_cons_of_pos found
      rw [first, List.filter_cons_of_pos found, Option.toList_some, claimedAt_cons, claimedAt_cons, claimedAt_nil]
      omega
    · have rest : claimOf (c :: cs) st ch = claimOf cs st ch := List.find?_cons_of_neg found
      rw [rest, List.filter_cons_of_neg found]
      exact ih

/-- R66 OVER: a placing entry that is not rejected leaves the map within the budget. -/
theorem placed_within {guard budget source : Nat} {r : Replica} {p : PlaceEntry} (agrees : MapAgrees r.claims r.slotMap)
    (within : MapWithin budget r.slotMap) (judged : judgePlacing guard budget r source p = none) :
    MapWithin budget ((r.removeWhere (Claim.isFor source p.channel)).append (p.claim source)).slotMap := by
  have free : wouldExceed r.slotMap budget p.start.toNat p.len.toNat p.units.toNat
      (claimOf r.claims source p.channel) ≠ true := by
    unfold judgePlacing at judged
    repeat' split at judged
    all_goals simp_all
  intro k hk
  have removed := (agrees.removeWhere (Claim.isFor source p.channel)).1
  have lower := MapWithin.removeWhere (Claim.isFor source p.channel) within k hk
  simp only [Replica.append, PlaceEntry.claim]
  rw [occupancy_addOver _ _ _ (by rw [removed]; exact hk)]
  split
  next inside =>
    by_contra exceeds
    apply free
    rw [wouldExceed_iff]
    refine ⟨k, inside.1, inside.2, ?_⟩
    have own := claimOf_le_claimedAt r.claims source p.channel k
    rw [occupancy_removeWhere] at exceeds
    omega
  · exact lower

theorem placeEntry_within {guard budget source : Nat} {r : Replica} (p : PlaceEntry) (agrees : MapAgrees r.claims r.slotMap)
    (within : MapWithin budget r.slotMap) : MapWithin budget (placeEntry guard budget source r p).1.slotMap := by
  unfold placeEntry
  split
  · split
    · exact within
    · split
      · exact within
      · exact within.removeWhere _
  · split
    · exact within
    next judged => exact placed_within agrees within judged

theorem placeEntries_within {guard budget source : Nat} (ps : List PlaceEntry) {r : Replica}
    (agrees : MapAgrees r.claims r.slotMap) (within : MapWithin budget r.slotMap) :
    MapWithin budget (placeEntries guard budget source r ps).1.slotMap := by
  induction ps generalizing r with
  | nil => exact within
  | cons p ps ih =>
    exact ih ((placeEntry_spec guard budget source r p).1 agrees) (placeEntry_within p agrees within)

/-- R9: the law of the Slot Map of a replica. -/
def Replica.MapOk (budget : Nat) (r : Replica) : Prop := MapLaw budget r.claims r.slotMap r.shed

theorem founding_mapOk (budget own : Nat) : (Replica.founding own).MapOk budget :=
  ⟨.empty, fun k _ => by rw [show (Replica.founding own).slotMap = emptyMap from rfl, occupancy_emptyMap]; exact Nat.zero_le _⟩

theorem placeEntries_mapOk {budget guard source : Nat} {r : Replica} (ps : List PlaceEntry) (h : r.MapOk budget) :
    (placeEntries guard (effectiveBudget budget r.shed) source r ps).1.MapOk budget := by
  obtain ⟨agrees, -, shed, -⟩ := placeEntries_spec guard (effectiveBudget budget r.shed) source ps r
  refine ⟨agrees h.1, ?_⟩
  rw [shed]
  exact placeEntries_within ps h.1 h.2

theorem joined_mapOk {budget : Nat} {r : Replica} (source : Nat) (h : r.MapOk budget) : (r.joined source).MapOk budget :=
  ⟨h.1.removeWhere _, MapWithin.removeWhere (r := r) _ h.2⟩

theorem evictPairs_mapOk {budget own : Nat} {r : Replica} (ps : List Pair) (h : r.MapOk budget) :
    (evictPairs own r ps).1.MapOk budget := by
  obtain ⟨agrees, -, -, lower, shed, -⟩ := evictPairs_spec own ps r
  refine ⟨agrees h.1, fun k hk => ?_⟩
  rw [shed]
  exact (lower k).trans (h.2 k hk)

theorem shedReplica_mapOk {budget : Nat} {r : Replica} (l : Num4) (h : r.MapOk budget) :
    (shedReplica budget r l).1.MapOk budget := by
  unfold shedReplica
  dsimp only
  split
  · obtain ⟨agrees, within, -, -, -, shed, -⟩ := shedLoop_spec (effectiveBudget budget l) r.claims.length { r with shed := l }
    refine ⟨agrees h.1, ?_⟩
    rw [shed]
    exact within h.1 le_rfl
  next notRaised => exact ⟨h.1, h.2.mono (effectiveBudget_le (by simpa using notRaised))⟩

/-! ## Roster and Claim List -/

/-- R7, R11: the laws of the Roster and the Claim List of a replica that holds the own station. -/
def Replica.MembersOk (guard own : Nat) (r : Replica) : Prop :=
  RosterLaw r.roster ∧ isMember r.roster own = true ∧ ClaimsLaw guard r.roster r.claims

theorem founding_membersOk {own : Nat} (guard : Nat) (lo : 1 ≤ own) (hi : own ≤ 30) :
    (Replica.founding own).MembersOk guard own := by
  refine ⟨⟨List.pairwise_singleton _ _, fun m hm => ?_⟩, ?_, .nil, fun c hc => ?_⟩
  · obtain rfl := List.mem_singleton.mp hm
    exact ⟨lo, hi⟩
  · simp [Replica.founding, isMember]
  · simp [Replica.founding, Replica.empty] at hc

/-- Fewer entries, for stations that all stay, keep the law. -/
theorem ClaimsLaw.sublist {guard : Nat} {ms ms' : List Member} {cs cs' : List Claim} (h : ClaimsLaw guard ms cs)
    (sub : cs'.Sublist cs) (members : ∀ c ∈ cs', isMember ms' c.station = true) : ClaimsLaw guard ms' cs' :=
  ⟨h.1.sublist sub, fun c hc => ⟨members c hc, (h.2 c (sub.subset hc)).2⟩⟩

theorem ClaimsLaw.filter {guard : Nat} {ms : List Member} {cs : List Claim} (h : ClaimsLaw guard ms cs)
    (p : Claim → Bool) : ClaimsLaw guard ms (cs.filter p) :=
  h.sublist List.filter_sublist fun c hc => (h.2 c (List.mem_filter.mp hc).1).1

theorem not_isFor_iff (c : Claim) (st : Nat) (ch : Num4) : (!c.isFor st ch) = true ↔ c.station ≠ st ∨ c.channel ≠ ch := by
  simp [Claim.isFor, ← not_and_or]

/-- R7, R67: a placed entry takes the place of that of its channel. -/
theorem placed_claimsLaw {guard budget source : Nat} {r : Replica} {p : PlaceEntry}
    (h : ClaimsLaw guard r.roster r.claims) (placing : p.len ≠ 0) (judged : judgePlacing guard budget r source p = none) :
    ClaimsLaw guard r.roster ((r.removeWhere (Claim.isFor source p.channel)).append (p.claim source)).claims := by
  have kept := h.filter fun c => !c.isFor source p.channel
  have inside : isMember r.roster source = true ∧ guard ≤ p.start.toNat ∧
      p.start.toNat + p.len.toNat ≤ Config.slots - guard := by
    unfold judgePlacing at judged
    repeat' split at judged
    all_goals simp_all
  have length : 1 ≤ p.len.toNat := by
    by_contra short
    exact placing (BitVec.eq_of_toNat_eq (by simp; omega))
  simp only [Replica.append_claims, Replica.removeWhere_claims]
  refine ⟨List.pairwise_append.mpr ⟨kept.1, List.pairwise_singleton _ _, fun c hc d hd => ?_⟩, fun c hc => ?_⟩
  · obtain rfl := List.mem_singleton.mp hd
    exact (not_isFor_iff c source p.channel).mp (List.mem_filter.mp hc).2
  · rcases List.mem_append.mp hc with old | new
    · exact kept.2 c old
    · obtain rfl := List.mem_singleton.mp new
      exact ⟨inside.1, inside.2.1, length, inside.2.2⟩

theorem placeEntry_claimsLaw {guard budget source : Nat} {r : Replica} (p : PlaceEntry)
    (h : ClaimsLaw guard r.roster r.claims) :
    ClaimsLaw guard r.roster (placeEntry guard budget source r p).1.claims := by
  unfold placeEntry
  split
  · split
    · exact h
    · split
      · exact h
      · exact h.filter _
  next placing =>
    split
    · exact h
    next judged => exact placed_claimsLaw h placing judged

theorem placeEntries_claimsLaw {guard budget source : Nat} (ps : List PlaceEntry) {r : Replica}
    (h : ClaimsLaw guard r.roster r.claims) :
    ClaimsLaw guard r.roster (placeEntries guard budget source r ps).1.claims := by
  induction ps generalizing r with
  | nil => exact h
  | cons p ps ih =>
    have roster := (placeEntry_spec guard budget source r p).2.1
    have first := placeEntry_claimsLaw (budget := budget) (source := source) p h
    have rest := ih (r := (placeEntry guard budget source r p).1) (by rw [roster]; exact first)
    rw [roster] at rest
    exact rest

theorem placeEntries_membersOk {guard budget source own : Nat} {r : Replica} (ps : List PlaceEntry)
    (h : r.MembersOk guard own) : (placeEntries guard budget source r ps).1.MembersOk guard own := by
  obtain ⟨roster, member, claims⟩ := h
  rw [Replica.MembersOk, (placeEntries_spec guard budget source ps r).2.1]
  exact ⟨roster, member, placeEntries_claimsLaw ps claims⟩

theorem joined_membersOk {guard own source : Nat} {r : Replica} (lo : 1 ≤ source) (hi : source ≤ 30)
    (h : r.MembersOk guard own) : (r.joined source).MembersOk guard own := by
  obtain ⟨roster, member, claims⟩ := h
  obtain ⟨law, -, members⟩ := joinRoster_law roster lo hi
  refine ⟨law, members own member, claims.sublist List.filter_sublist fun c hc => members _ ?_⟩
  exact (claims.2 c (List.mem_filter.mp hc).1).1

theorem RosterLaw.sublist {ms ms' : List Member} (h : RosterLaw ms) (sub : ms'.Sublist ms) : RosterLaw ms' :=
  ⟨h.1.sublist sub, fun m hm => h.2 m (sub.subset hm)⟩

/-- R72: a station taken out keeps the others and their entries. -/
theorem isMember_evictStation (r : Replica) (gone st : Nat) :
    isMember (r.evictStation gone).roster st = true ↔ isMember r.roster st = true ∧ st ≠ gone := by
  simp only [isMember_iff, Replica.evictStation_roster, List.mem_filter, bne_iff_ne]
  constructor
  · rintro ⟨m, ⟨mem, ne⟩, rfl⟩
    exact ⟨⟨m, mem, rfl⟩, ne⟩
  · rintro ⟨⟨m, mem, rfl⟩, ne⟩
    exact ⟨m, ⟨mem, ne⟩, rfl⟩

theorem evictStation_membersOk {guard own gone : Nat} {r : Replica} (h : r.MembersOk guard own) (other : gone ≠ own) :
    (r.evictStation gone).MembersOk guard own := by
  obtain ⟨roster, member, claims⟩ := h
  refine ⟨roster.sublist List.filter_sublist, (isMember_evictStation r gone own).mpr ⟨member, Ne.symm other⟩,
    claims.sublist List.filter_sublist fun c hc => (isMember_evictStation r gone _).mpr ?_⟩
  obtain ⟨mem, stays⟩ := List.mem_filter.mp hc
  exact ⟨(claims.2 c mem).1, by simpa using stays⟩

theorem evictPairs_membersOk {guard own : Nat} (ps : List Pair) {r : Replica} (h : r.MembersOk guard own)
    (others : (evictPairs own r ps).2 = false) : (evictPairs own r ps).1.MembersOk guard own := by
  induction ps generalizing r with
  | nil => exact h
  | cons p ps ih =>
    unfold evictPairs at others ⊢
    by_cases matching : pairMatches r.roster p = true
    · rw [if_pos matching] at others ⊢
      by_cases self : p.station.toNat = own
      · rw [if_pos self] at others
        cases others
      · rw [if_neg self] at others ⊢
        exact ih (evictStation_membersOk h self) others
    · rw [if_neg matching] at others ⊢
      exact ih h others

theorem shedReplica_roster (budget : Nat) (r : Replica) (l : Num4) :
    (shedReplica budget r l).1.roster = r.roster ∧ (shedReplica budget r l).1.claims.Sublist r.claims := by
  unfold shedReplica
  dsimp only
  split
  · obtain ⟨-, -, claims, -, roster, -⟩ := shedLoop_spec (effectiveBudget budget l) r.claims.length { r with shed := l }
    exact ⟨roster, claims⟩
  · exact ⟨rfl, .refl _⟩

theorem shedReplica_membersOk {guard own budget : Nat} {r : Replica} (l : Num4) (h : r.MembersOk guard own) :
    (shedReplica budget r l).1.MembersOk guard own := by
  obtain ⟨roster, member, claims⟩ := h
  obtain ⟨same, sub⟩ := shedReplica_roster budget r l
  rw [Replica.MembersOk, same]
  exact ⟨roster, member, claims.sublist sub fun c hc => (claims.2 c (sub.subset hc)).1⟩

/-! ## The dump build -/

/-- R85: the law of the occupancy of a build. -/
def DumpBuild.MapOk (budget : Nat) (b : DumpBuild) : Prop := MapLaw budget b.claims b.occupancy b.shed

/-- R83, R85: the laws of the Roster and the claims of a build. -/
def DumpBuild.MembersOk (guard : Nat) (b : DumpBuild) : Prop := RosterLaw b.roster ∧ ClaimsLaw guard b.roster b.claims

/-- R83: a roster entry spoils the build, or is added at the end. -/
theorem addMember_cases (b : DumpBuild) (p : Pair) :
    b.addMember p = { b with spoiled := true } ∨
      ((∀ m ∈ b.roster.getLast?, m.station < p.station.toNat) ∧ 1 ≤ p.station.toNat ∧ p.station.toNat ≤ 30 ∧
        b.addMember p =
          { b with roster := b.roster ++ [{ station := p.station.toNat, incarnation := p.incarnation }] }) := by
  unfold DumpBuild.addMember
  cases last : b.roster.getLast? with
  | none =>
    dsimp only
    split
    · exact .inl rfl
    next ok => exact .inr ⟨by simp, by omega, by omega, rfl⟩
  | some m =>
    dsimp only
    split
    · exact .inl rfl
    next ok => exact .inr ⟨by simp; omega, by omega, by omega, rfl⟩

/-- R85: a claim spoils the build, or is added within the budget, for a roster station, a channel and slots that may hold it. -/
theorem addClaim_cases (guard budget station : Nat) (b : DumpBuild) (p : PlaceEntry) :
    b.addClaim guard budget station p = { b with received := b.received + 1, spoiled := true } ∨
      (isMember b.roster station = true ∧ claimOf b.claims station p.channel = none ∧
        (guard ≤ p.start.toNat ∧ p.len.toNat ≠ 0 ∧ p.start.toNat + p.len.toNat ≤ Config.slots - guard) ∧
        buildExceeds b.occupancy (effectiveBudget budget b.shed) (p.claim station) = false ∧
        b.addClaim guard budget station p =
          { b with
            received := b.received + 1, claims := b.claims ++ [p.claim station]
            occupancy := addOver b.occupancy p.start.toNat p.len.toNat p.units.toNat }) := by
  unfold DumpBuild.addClaim
  dsimp only
  split
  · exact .inl rfl
  next ok =>
    simp only [Bool.or_eq_true, not_or, Bool.not_eq_true, Bool.not_eq_false', decide_eq_false_iff_not,
      Option.isSome_eq_false_iff, Option.isNone_iff_eq_none, PlaceEntry.claim] at ok
    obtain ⟨⟨⟨⟨member, free⟩, placement⟩, fits⟩, -⟩ := ok
    have inside := of_decide_eq_false placement
    exact .inr ⟨member, free, ⟨by omega, by omega, by omega⟩, fits, rfl⟩

theorem buildExceeds_false {occ : List Nat} {budget : Nat} {c : Claim} (h : buildExceeds occ budget c = false) {k : Nat}
    (lo : c.start ≤ k) (hi : k < c.start + c.len) : occupancy occ k + c.units ≤ budget := by
  simp only [buildExceeds, List.any_eq_false, List.mem_range, decide_eq_true_eq, not_lt] at h
  have := h (k - c.start) (by omega)
  rwa [Nat.add_sub_cancel' lo] at this

theorem addMember_mapOk {budget : Nat} {b : DumpBuild} (h : b.MapOk budget) (p : Pair) : (b.addMember p).MapOk budget := by
  rcases addMember_cases b p with eq | ⟨-, -, -, eq⟩ <;> rw [eq] <;> exact h

theorem addMember_membersOk {guard : Nat} {b : DumpBuild} (h : b.MembersOk guard) (p : Pair) :
    (b.addMember p).MembersOk guard := by
  obtain ⟨roster, claims⟩ := h
  rcases addMember_cases b p with eq | ⟨last, lo, hi, eq⟩ <;> rw [eq]
  · exact ⟨roster, claims⟩
  refine ⟨⟨List.pairwise_append.mpr ⟨roster.1, List.pairwise_singleton _ _, fun m hm x hx => ?_⟩, fun m hm => ?_⟩,
    claims.1, fun c hc => ⟨?_, (claims.2 c hc).2⟩⟩
  · obtain rfl := List.mem_singleton.mp hx
    obtain ⟨ms, z, parts⟩ : ∃ ms z, b.roster = ms ++ [z] := by
      rcases List.eq_nil_or_concat b.roster with nil | ⟨ms, z, parts⟩
      · simp [nil] at hm
      · exact ⟨ms, z, by simpa using parts⟩
    have below := last z (by simp [parts])
    rw [parts] at hm
    rcases List.mem_append.mp hm with before | at_end
    · have increasing := roster.1
      rw [parts, List.pairwise_append] at increasing
      exact (increasing.2.2 m before z (List.mem_singleton_self z)).trans below
    · obtain rfl := List.mem_singleton.mp at_end
      exact below
  · rcases List.mem_append.mp hm with old | new
    · exact roster.2 m old
    · obtain rfl := List.mem_singleton.mp new
      exact ⟨lo, hi⟩
  · obtain ⟨m, mem, eq⟩ := (isMember_iff _ _).mp (claims.2 c hc).1
    exact (isMember_iff _ _).mpr ⟨m, List.mem_append_left _ mem, eq⟩

theorem addClaim_mapOk {guard budget station : Nat} {b : DumpBuild} (h : b.MapOk budget) (p : PlaceEntry) :
    (b.addClaim guard budget station p).MapOk budget := by
  rcases addClaim_cases guard budget station b p with eq | ⟨-, -, -, fits, eq⟩ <;> rw [eq]
  · exact h
  obtain ⟨⟨length, agrees⟩, within⟩ := h
  refine ⟨⟨(length_addOver _ _ _ _).trans length, fun k hk => ?_⟩, fun k hk => ?_⟩
  · dsimp only
    rw [occupancy_addOver _ _ _ (length ▸ hk), claimedAt_append, claimedAt_cons, claimedAt_nil, ← agrees k hk]
    simp only [Claim.covers_iff, PlaceEntry.claim]
    split <;> rfl
  · dsimp only
    rw [occupancy_addOver _ _ _ (length ▸ hk)]
    split
    next inside => exact buildExceeds_false fits inside.1 inside.2
    · exact within k hk

/-- R7: no entry for (station, channel) in a list in which none is found. -/
theorem claimOf_none {cs : List Claim} {st : Nat} {ch : Num4} (h : claimOf cs st ch = none) {c : Claim} (hc : c ∈ cs) :
    c.station ≠ st ∨ c.channel ≠ ch := by
  have := List.find?_eq_none.mp h c hc
  exact (not_isFor_iff c st ch).mp (by simpa using this)

theorem addClaim_membersOk {guard budget station : Nat} {b : DumpBuild} (h : b.MembersOk guard) (p : PlaceEntry) :
    (b.addClaim guard budget station p).MembersOk guard := by
  obtain ⟨roster, claims⟩ := h
  rcases addClaim_cases guard budget station b p with eq | ⟨member, free, inside, -, eq⟩ <;> rw [eq]
  · exact ⟨roster, claims⟩
  refine ⟨roster, List.pairwise_append.mpr ⟨claims.1, List.pairwise_singleton _ _, fun c hc d hd => ?_⟩, fun c hc => ?_⟩
  · obtain rfl := List.mem_singleton.mp hd
    exact claimOf_none free hc
  · rcases List.mem_append.mp hc with old | new
    · exact claims.2 c old
    · obtain rfl := List.mem_singleton.mp new
      exact ⟨member, inside.1, Nat.one_le_iff_ne_zero.mpr inside.2.1, inside.2.2⟩

/-- What each entry of a part keeps, and marks on a build do not touch, a part keeps (R83 to R85). -/
theorem addPart_keeps {P : DumpBuild → Prop} {guard budget : Nat}
    (mark : ∀ b spoiled cursor phase, P b → P { b with spoiled := spoiled, cursor := cursor, phase := phase })
    (member : ∀ b p, P b → P (b.addMember p))
    (claim : ∀ b station p, P b → P (b.addClaim guard budget station p)) {b : DumpBuild} (source : Nat) (p : DumpPart)
    (h : P b) : P (b.addPart guard budget source p) := by
  have members : ∀ (es : List Pair) (b : DumpBuild), P b → P (es.foldl DumpBuild.addMember b) := by
    intro es
    induction es with
    | nil => exact fun _ h => h
    | cons e es ih => exact fun b h => ih _ (member b e h)
  have claims : ∀ (st : Nat) (es : List PlaceEntry) (b : DumpBuild), P b →
      P (es.foldl (DumpBuild.addClaim guard budget st) b) := by
    intro st es
    induction es with
    | nil => exact fun _ h => h
    | cons e es ih => exact fun b h => ih _ (claim b st e h)
  unfold DumpBuild.addPart
  split
  · exact mark b true b.cursor b.phase h
  · split
    · exact members _ _ h
    · exact mark b true b.cursor b.phase h
    · exact mark b b.spoiled _ _ h
    · exact mark b true b.cursor b.phase h
    · exact claims _ _ _ h
    · exact claims _ _ _ (mark b true b.cursor _ h)

theorem complete_member {own : Nat} {b : DumpBuild} (h : b.complete own = true) : isMember b.roster own = true := by
  simp only [DumpBuild.complete, Bool.and_eq_true] at h
  exact h.2

end Sys2Proof.Machine

/-! What an effect makes of the replica, of the dump build and of the controller's items that follow the Roster; and with it the
law of the Slot Map (R9), those of the Roster and the Claim List (R7, R11), and those that hold in RUN (R15, R119, R121). -/

namespace Sys2Proof.Machine

/-! ## The replica and the dump build after an effect -/

/-- R15: the replica once a state-changing record has been counted. -/
def Replica.counted (r : Replica) : Replica := { r with stateCount := r.stateCount + 1 }

theorem recount_eq (e : Engine) (r : Replica) :
    e.recount r = { e with replica := r.counted, heldCheck := stateCheck r.counted } := rfl

/-- Where the replica, the own incarnation and the silence counters of a station in RUN come from. -/
inductive RunFrom (s : State) : Replica → Byte → List Silence → Prop
  | kept (run : s.ctl.station = .run) (cursor : Cursor) {f : Silence → Silence} (stations : ∀ x, (f x).station = x.station) :
      RunFrom s { s.engine.replica with cursor := cursor } s.ctl.ownIncarnation (s.ctl.silence.map f)
  | placed (run : s.ctl.station = .run) (source : Nat) (es : List PlaceEntry) :
      RunFrom s (s.placedReplica source es).counted s.ctl.ownIncarnation s.ctl.silence
  | joined (run : s.ctl.station = .run) {r : Record} (queued : r ∈ s.line.inbound) :
      RunFrom s (s.engine.replica.joined r.source).counted
        (if r.source = s.own then incarnationIn s.own (joinRoster r.source s.engine.replica.roster)
          else s.ctl.ownIncarnation)
        (addSilence s.own r.source s.engine.replica.roster s.ctl.silence)
  | evicted (run : s.ctl.station = .run) {ps : List Pair} (others : (evictPairs s.own s.engine.replica ps).2 = false) :
      RunFrom s (s.evictedReplica ps).counted s.ctl.ownIncarnation
        (pruneSilence (s.evictedReplica ps).roster s.ctl.silence)
  | shed (run : s.ctl.station = .run) (l : Num4) : RunFrom s (s.shedTo l).counted s.ctl.ownIncarnation s.ctl.silence
  | founded (listening : s.ctl.station.listening = true) :
      RunFrom s (.founding s.own) (incarnationIn s.own (Replica.founding s.own).roster)
        (freshSilence s.own (Replica.founding s.own).roster)
  | installed {b : DumpBuild} (build : s.engine.build = some b) (source : Nat) (p : DumpPart)
      (complete : (b.addPart s.cfg.guard s.cfg.budget source p).complete s.own = true) :
      RunFrom s (b.addPart s.cfg.guard s.cfg.budget source p).replica
        (incarnationIn s.own (b.addPart s.cfg.guard s.cfg.budget source p).replica.roster)
        (freshSilence s.own (b.addPart s.cfg.guard s.cfg.budget source p).replica.roster)

/-- Where a dump build comes from (R83 to R86, R112). -/
inductive BuildFrom (s : State) : DumpBuild → Prop
  | kept {b : DumpBuild} (build : s.engine.build = some b) (closing : Bool) : BuildFrom s { b with closing := closing }
  | opened (source : Nat) (f : DumpOpen) : BuildFrom s (.opened source f)
  | part {b : DumpBuild} (build : s.engine.build = some b) (source : Nat) (p : DumpPart) :
      BuildFrom s (b.addPart s.cfg.guard s.cfg.budget source p)

/-- The replica and the dump build after an effect that leaves parameters and identity. -/
structure EngineStep (s t : State) : Prop where
  cfg : t.cfg = s.cfg
  own : t.own = s.own
  run : t.ctl.station = .run → RunFrom s t.engine.replica t.ctl.ownIncarnation t.ctl.silence
  check : t.ctl.station = .run → t.engine.heldCheck = stateCheck t.engine.replica ∨
    (s.ctl.station = .run ∧ t.engine.heldCheck = s.engine.heldCheck ∧
      stateCheck t.engine.replica = stateCheck s.engine.replica)
  build : ∀ b, t.engine.build = some b → BuildFrom s b
  placed : BuildPlaced t

/-- A station that has neither a replica of RUN nor a dump build. -/
def Unbuilt (t : State) : Prop := t.ctl.station ≠ .run ∧ t.engine.build = none

/-- The engine is unbuilt, or comes of what it was. -/
def EngineEnd (s t : State) : Prop := Unbuilt t ∨ EngineStep s t

theorem EngineEnd.placed {s t : State} (h : EngineEnd s t) : BuildPlaced t := by
  rcases h with ⟨-, none⟩ | step
  · simp [BuildPlaced, none]
  · exact step.placed

/-- Engine, station state, own incarnation and, but for the counts, silence counters left as they were. -/
theorem EngineStep.still {s t : State} (placed : BuildPlaced s) (cfg : t.cfg = s.cfg) (loader : t.loader = s.loader)
    (engine : t.engine.replica = s.engine.replica ∧ t.engine.heldCheck = s.engine.heldCheck ∧
      t.engine.build = s.engine.build)
    (ctl : t.ctl.station = s.ctl.station ∧ t.ctl.ownIncarnation = s.ctl.ownIncarnation) {f : Silence → Silence}
    (stations : ∀ x, (f x).station = x.station) (silence : t.ctl.silence = s.ctl.silence.map f) : EngineStep s t where
  cfg := cfg
  own := by rw [State.own, loader]; rfl
  run run := by
    rw [engine.1, ctl.2, silence]
    exact .kept (ctl.1 ▸ run) s.engine.replica.cursor stations
  check run := .inr ⟨ctl.1 ▸ run, engine.2.1, by rw [engine.1]⟩
  build b build := .kept (by rw [← engine.2.2]; exact build) b.closing
  placed := by
    rw [BuildPlaced, engine.2.2, ctl.1]
    exact placed

theorem EngineStep.of_eq {s t : State} (placed : BuildPlaced s) (cfg : t.cfg = s.cfg) (loader : t.loader = s.loader)
    (engine : t.engine.replica = s.engine.replica ∧ t.engine.heldCheck = s.engine.heldCheck ∧
      t.engine.build = s.engine.build) (ctl : t.ctl = s.ctl) : EngineStep s t :=
  .still (f := id) placed cfg loader engine (by rw [ctl]; exact ⟨rfl, rfl⟩) (fun _ => rfl) (by rw [ctl, List.map_id])

/-- What follows an effect and leaves parameters, loader, engine and controller. -/
theorem EngineEnd.congr {s t u : State} (h : EngineEnd s t) (cfg : u.cfg = t.cfg) (loader : u.loader = t.loader)
    (engine : u.engine.replica = t.engine.replica ∧ u.engine.heldCheck = t.engine.heldCheck ∧
      u.engine.build = t.engine.build)
    (ctl : u.ctl.station = t.ctl.station ∧ u.ctl.ownIncarnation = t.ctl.ownIncarnation ∧ u.ctl.silence = t.ctl.silence) :
    EngineEnd s u := by
  obtain ⟨replica, check, build⟩ := engine
  obtain ⟨station, incarnation, silence⟩ := ctl
  rcases h with ⟨outside, none⟩ | step
  · exact .inl ⟨by rw [station]; exact outside, by rw [build]; exact none⟩
  · refine .inr ⟨cfg.trans step.cfg, ?_, ?_, ?_, ?_, ?_⟩
    · exact (by rw [State.own, loader]; rfl : u.own = t.own).trans step.own
    · rw [station, replica, incarnation, silence]
      exact step.run
    · rw [station, replica, check]
      exact step.check
    · rw [build]
      exact step.build
    · rw [BuildPlaced, build, station]
      exact step.placed

theorem EngineEnd.congr' {s t u : State} (h : EngineEnd s t) (cfg : u.cfg = t.cfg) (loader : u.loader = t.loader)
    (engine : u.engine = t.engine) (ctl : u.ctl = t.ctl) : EngineEnd s u :=
  h.congr cfg loader (by rw [engine]; exact ⟨rfl, rfl, rfl⟩) (by rw [ctl]; exact ⟨rfl, rfl, rfl⟩)

/-! ## Quiet effects -/

/-- A record applied in RUN: the engine gains the counted replica `r`, and the controller what follows it. -/
theorem EngineStep.recounted {s t : State} {r : Replica} (placed : BuildPlaced s)
    (cfg : t.cfg = s.cfg) (loader : t.loader = s.loader)
    (engine : t.engine.replica = r.counted ∧ t.engine.heldCheck = stateCheck r.counted ∧
      t.engine.build = s.engine.build) (station : t.ctl.station = s.ctl.station)
    (origin : RunFrom s r.counted t.ctl.ownIncarnation t.ctl.silence) : EngineStep s t where
  cfg := cfg
  own := by rw [State.own, loader]; rfl
  run _ := by rw [engine.1]; exact origin
  check _ := .inl (by rw [engine.1, engine.2.1])
  build b build := .kept (by rw [← engine.2.2]; exact build) b.closing
  placed := by
    rw [BuildPlaced, engine.2.2, station]
    exact placed

/-- The engine after a PLACE, JOIN, EVICT or SHED. -/
theorem commit_counted {f : State → State}
    (hf : ∀ s, (f s).engine.replica = s.engine.replica ∧ (f s).engine.heldCheck = s.engine.heldCheck ∧
      (f s).engine.build = s.engine.build) (s : State) (e : Byte) (r : Replica) (touched : List Num4) :
    (s.commit e r touched f).engine.replica = r.counted ∧
      (s.commit e r touched f).engine.heldCheck = stateCheck r.counted ∧
      (s.commit e r touched f).engine.build = s.engine.build := by
  obtain ⟨replica, check, build⟩ := hf (s.recorded e r touched)
  rw [commit_engine, replica, check, build, recorded_engine]
  exact ⟨rfl, rfl, rfl⟩

theorem appliedQuiet_engineStep {s t : State} {r : Record} (placed : BuildPlaced s) (queued : r ∈ s.line.inbound)
    (h : AppliedQuiet s r t) : EngineStep s t := by
  cases h with
  | @place e es run =>
    refine .recounted (r := s.placedReplica r.source es) placed (by simp) (by simp)
      (commit_counted (f := handOutcomes (s.ownOutcomes r.source es)) (fun u => ?_) _ _ _ _) (by simp) ?_
    · rw [handOutcomes_engine]
      exact ⟨rfl, rfl, rfl⟩
    · rw [applyPlaceRecord_ctl]
      exact .placed run r.source es
  | @join e run =>
    refine .recounted (r := s.engine.replica.joined r.source) placed (by simp) (by simp) ?_ ?_ ?_
    · rw [State.oweDump, joined_engine]
      exact ⟨rfl, rfl, rfl⟩
    · rw [oweDump_ctl, joined_ctl]
    · rw [oweDump_ctl, joined_ctl]
      exact .joined run queued
  | joinMismatch run =>
    exact .of_eq placed (by simp) (by simp) (by simp [State.oweDump]) (by simp)
  | @evict e ps run near others =>
    have ctl := commit_ctl (f := id) (fun _ => rfl) (s.pruned (s.evictedReplica ps).roster) e (s.evictedReplica ps) []
    refine .recounted (r := s.evictedReplica ps) placed ?_ ?_ ?_ ?_ ?_
    · exact commit_cfg (f := id) (fun _ => rfl) _ _ _ _
    · exact commit_loader (f := id) (fun _ => rfl) _ _ _ _
    · exact commit_counted (f := id) (fun _ => ⟨rfl, rfl, rfl⟩) _ _ _ _
    · rw [ctl]
      rfl
    · rw [ctl]
      exact .evicted run others
  | @shed e l run =>
    refine .recounted (r := s.shedTo l) placed (by simp) (by simp)
      (commit_counted (f := handSheds (s.shedOwn l)) (fun u => ?_) _ _ _ _) (by simp) ?_
    · rw [handSheds_engine]
      exact ⟨rfl, rfl, rfl⟩
    · rw [applyShedRecord_ctl]
      exact .shed run l
  | dumpOpen run => exact .of_eq placed rfl rfl ⟨rfl, rfl, rfl⟩ rfl
  | @dumpPart b0 p receiving build =>
    exact ⟨rfl, rfl, fun run => absurd (receiving ▸ run : StationState.dumpReceive = .run) (by decide),
      fun run => absurd (receiving ▸ run : StationState.dumpReceive = .run) (by decide),
      fun b eq => Option.some.inj eq ▸ .part build r.source p, fun _ => receiving⟩
  | tally run => exact .of_eq placed rfl rfl ⟨rfl, rfl, rfl⟩ rfl
  | @scene x run =>
    refine ⟨rfl, rfl, fun _ => ?_, fun _ => .inr ⟨run, rfl, stateCheck_congr s.engine.replica x.1 _⟩, fun b build => ?_, placed⟩
    · have := RunFrom.kept run x.1 (f := id) fun _ => rfl
      rwa [List.map_id] at this
    · exact .kept (s := s) build b.closing

/-! ## Loud effects -/

theorem unbuilt_of {s t : State} (placed : BuildPlaced s) (outside : t.ctl.station ≠ .run)
    (build : t.engine.build = s.engine.build) (station : s.ctl.station ≠ .dumpReceive) : Unbuilt t :=
  ⟨outside, by
    rw [build]
    exact Option.not_isSome_iff_eq_none.mp (mt placed station)⟩

theorem returnToJoinSend_unbuilt (s : State) : Unbuilt s.returnToJoinSend := ⟨by simp [State.returnToJoinSend], rfl⟩

theorem abandonSlot_engineEnd {r s : State} (h : EngineEnd r s) (slot : SlotId) : EngineEnd r (s.abandonSlot slot) := by
  have still := fun {t : State} => h.congr (u := t)
  unfold State.abandonSlot
  cases slot with
  | joinFound =>
    dsimp only
    split
    · exact .inl (returnToJoinSend_unbuilt _)
    · exact still rfl rfl ⟨rfl, rfl, rfl⟩ ⟨rfl, rfl, rfl⟩
    · exact still rfl rfl ⟨rfl, rfl, rfl⟩ ⟨rfl, rfl, rfl⟩
  | dump =>
    dsimp only
    split <;> exact still rfl rfl ⟨rfl, rfl, rfl⟩ ⟨rfl, rfl, rfl⟩
  | _ => exact still rfl rfl ⟨rfl, rfl, rfl⟩ ⟨rfl, rfl, rfl⟩

theorem attemptFailed_engineEnd {r s : State} (h : EngineEnd r s) (hold : Bool) :
    EngineEnd r (s.attemptFailed hold) := by
  rcases attemptFailed_cases s hold with ⟨-, eq⟩ | ⟨a, -, ⟨-, eq⟩ | ⟨-, eq⟩⟩ <;> rw [eq]
  · exact h
  · exact h.congr' rfl rfl rfl rfl
  · refine EngineEnd.congr' (t := s.ended.failSlot a.slot hold) ?_ rfl rfl rfl rfl
    unfold State.failSlot
    dsimp only
    split
    · exact abandonSlot_engineEnd (s := s.ended) (h.congr' rfl rfl rfl rfl) a.slot
    · exact h.congr' rfl rfl rfl rfl

theorem attemptLost_engineEnd {s : State} (placed : BuildPlaced s) : EngineEnd s s.attemptLost := by
  rcases attemptLost_cases s with ⟨-, eq⟩ | ⟨a, -, ⟨-, eq⟩ | ⟨-, eq⟩⟩ <;> rw [eq] <;>
    exact .inr (.of_eq placed rfl rfl ⟨rfl, rfl, rfl⟩ rfl)

/-- R53 to R59: the station decides at an acceptance. -/
theorem decided_engineEnd {s d : State} {m : Message} {queued boundary : Bool} (placed : BuildPlaced s)
    (decided : Decided (s.heard queued boundary m) d) : EngineEnd s d ∧ d.cfg = s.cfg ∧ d.loader = s.loader := by
  have stands : EngineStep s (s.heard queued boundary m) := by
    refine .still (f := fun x => if x.station = m.source then { x with count := 0 } else x) placed (by simp) (by simp)
      (by simp) (by rw [heard_ctl]; exact ⟨rfl, rfl⟩) (fun x => ?_) (by rw [heard_ctl]; rfl)
    split <;> rfl
  have build : (s.heard queued boundary m).engine.build = s.engine.build := by rw [heard_engine]
  cases decided with
  | stands => exact ⟨.inr stands, heard_cfg .., heard_loader ..⟩
  | receives source f joining =>
    refine ⟨.inr ⟨heard_cfg .., by rw [State.own]; exact congrArg Loader.strap (heard_loader ..), ?_, ?_, ?_, fun _ => rfl⟩,
      heard_cfg .., heard_loader ..⟩
    · intro run
      cases run
    · intro run
      cases run
    · rintro b ⟨⟩
      exact .opened source f
  | returns => exact ⟨.inl (returnToJoinSend_unbuilt _), heard_cfg .., heard_loader ..⟩
  | fails => exact ⟨.inl ⟨by simp [State.failDump, State.returnToJoinSend], rfl⟩, heard_cfg .., heard_loader ..⟩
  | @closes b receiving was =>
    have outside : ∀ {P : Prop}, (s.heard queued boundary m).ctl.station = .run → P := fun run => by
      rw [receiving] at run
      cases run
    refine ⟨.inr ⟨heard_cfg .., by rw [State.own]; exact congrArg Loader.strap (heard_loader ..), outside, outside, ?_,
      fun _ => receiving⟩, heard_cfg .., heard_loader ..⟩
    rintro b' ⟨⟩
    exact .kept (build ▸ was) true

/-- R81: the own FOUND accepted. -/
theorem found_engineEnd {s d : State} (cfg : d.cfg = s.cfg) (loader : d.loader = s.loader)
    (listening : s.ctl.station.listening = true) (p : Byte) : EngineEnd s (d.found p) := by
  have own : d.own = s.own := congrArg Loader.strap loader
  refine .inr ⟨cfg, own, fun _ => ?_, fun _ => .inl rfl, fun b build => (by cases build), by simp [BuildPlaced, State.found,
    State.enterRun]⟩
  have from_own := RunFrom.founded (s := s) listening
  rw [← own] at from_own
  exact from_own

theorem acceptedBy_engineEnd {s : State} (placed : BuildPlaced s) (listening : s.ctl.station.listening = true)
    (queued boundary : Bool) (m : Message) : EngineEnd s (s.acceptedBy queued boundary m) := by
  obtain ⟨d, e, decided, ended, eq⟩ := acceptedBy_cases s queued boundary m
  obtain ⟨d_end, cfg, loader⟩ := decided_engineEnd placed decided
  rw [eq]
  refine EngineEnd.congr' (t := e) ?_ rfl rfl rfl rfl
  cases ended with
  | unsent => exact d_end
  | restarted => exact d_end.congr' rfl rfl rfl rfl
  | @done a _ sending rested done =>
    cases done with
    | joins slot station =>
      exact .inl (unbuilt_of (s := d) d_end.placed (by simp [State.enterJoinWait]) rfl
        (by rw [show d.ctl.station = .joinSend from station]; simp))
    | founds => exact found_engineEnd (d := d.counted a.slot) cfg loader listening _
    | stands => exact d_end.congr' rfl rfl rfl rfl
    | dumps => exact d_end.congr' rfl rfl rfl rfl
    | reports => exact d_end.congr' rfl rfl rfl rfl
    | levels => exact d_end.congr' rfl rfl rfl rfl
    | reloads => exact d_end.congr rfl rfl ⟨rfl, rfl, rfl⟩ ⟨rfl, rfl, rfl⟩

theorem periodStart_engineEnd {s : State} (placed : BuildPlaced s) (pull : Bool) : EngineEnd s (s.periodStart pull) := by
  have station := periodStart_station s pull
  have ctl : ((s.timerStarted pull).outputPeriodStart.touchPeriodStart).ctl = s.ctl := by simp [State.timerStarted]
  by_cases run : s.ctl.station = .run
  · have running := (controllerPeriodStart_run (s := (s.timerStarted pull).outputPeriodStart.touchPeriodStart)
      (by rw [ctl]; exact run)).1
    rw [← periodStart_ctl, ctl] at running
    refine .inr (.still (f := fun x => { x with count := min (x.count + 1) Config.silenceLimit }) placed (by simp) (by simp)
      (by simp) ?_ (fun _ => rfl) ?_) <;> rw [running]
    exact ⟨rfl, rfl⟩
  by_cases ends : s.ctl.station = .joinWait ∧ s.ctl.joinWait = 1
  · rw [if_pos ends] at station
    exact .inl (unbuilt_of placed (by rw [station]; simp) (by rw [State.periodStart_engine]) (by rw [ends.1]; simp))
  · rw [if_neg ends] at station
    refine .inr (.still (f := id) placed (by simp) (by simp) (by simp) ⟨station, ?_⟩ (fun _ => rfl) ?_) <;>
      rw [periodStart_ctl_outside run] <;> split <;> simp

theorem warmRestart_unbuilt (s : State) : Unbuilt s.warmRestart := by
  obtain ⟨-, engine, -, -, ctl⟩ := warmRestart_blocks s
  exact ⟨by rw [ctl]; simp, by rw [engine]; rfl⟩

theorem loud_engineEnd {c : Instr} {s t : State} (placed : BuildPlaced s) (loud : Loud c s t) : EngineEnd s t := by
  cases loud with
  | coldReset => exact .inl ⟨by simp [State.coldReset, State.reset], rfl⟩
  | strapsTaken loading => exact .inl (unbuilt_of placed (by simp [loading]) rfl (by simp [loading]))
  | halt => exact .inl ⟨by simp [State.halt], rfl⟩
  | configured read loading => exact .inl (unbuilt_of placed (by simp [State.configure]) rfl (by simp [loading]))
  | periodStart pull => exact periodStart_engineEnd placed pull
  | dumpTimesOut => exact .inl ⟨by simp [State.failDump, State.returnToJoinSend], rfl⟩
  | attemptStart =>
    obtain ⟨cs, f, a, eq, -, -⟩ := tryBuilds_eq allSlots.length (allSlots.filter s.ready) s
    rw [eq, withAttempt_frame]
    exact .inr (.of_eq placed rfl rfl ⟨rfl, rfl, rfl⟩ rfl)
  | attemptLost => exact attemptLost_engineEnd placed
  | brokenOff => exact attemptFailed_engineEnd (.inr (.of_eq placed rfl rfl ⟨rfl, rfl, rfl⟩ rfl)) _
  | failed => exact attemptFailed_engineEnd (s := s.countSignals _ _ _) (.inr (.of_eq placed rfl rfl ⟨rfl, rfl, rfl⟩ rfl)) _
  | @accepted m msg accepts => exact acceptedBy_engineEnd placed (receives_listening accepts.1) _ _ _
  | applied head record =>
    refine EngineEnd.congr' ?_ rfl rfl rfl rfl
    cases record with
    | warmRestart => exact .inl (warmRestart_unbuilt s)
    | failDump => exact .inl ⟨by simp [State.failDump, State.returnToJoinSend], rfl⟩
    | @installDump b0 p receiving build complete =>
      exact .inr ⟨rfl, rfl, fun _ => .installed build _ p complete, fun _ => .inl rfl, fun b built => (by cases built),
        by simp [BuildPlaced, State.installDump, State.enterRun]⟩

theorem useHead_mem {s : State} {r : Record} (h : s.useHead = some r) : r ∈ s.line.inbound := by
  obtain ⟨-, -, head, -⟩ := useHead_eq_some.mp h
  exact List.mem_of_mem_head? head

/-- What every effect makes of the replica and the dump build. -/
theorem effect_engineEnd {c : Instr} {s t : State} (placed : BuildPlaced s) (effect : Effect c s t) : EngineEnd s t := by
  rcases effect_cases effect with loud | rests | ⟨r, u, head, applied, rfl⟩
  · exact loud_engineEnd placed loud
  · exact .inr (.of_eq placed rests.cfg rests.loader (by rw [rests.engine]; exact ⟨rfl, rfl, rfl⟩) rests.ctl)
  · exact EngineEnd.congr' (t := u) (.inr (appliedQuiet_engineStep placed (useHead_mem head) applied)) rfl rfl rfl rfl

end Sys2Proof.Machine

/-! The law of the Slot Map (R9), those of the Roster and the Claim List (R7, R11), and those that hold in RUN (R15, R119, R121), from
what an effect makes of the replica and the dump build. -/

namespace Sys2Proof.Machine

/-! ## O51: the Slot Map -/

theorem opened_mapOk (budget source : Nat) (f : DumpOpen) : (DumpBuild.opened source f).MapOk budget :=
  ⟨.empty, fun k _ => by
    rw [show (DumpBuild.opened source f).occupancy = emptyMap from rfl, occupancy_emptyMap]
    exact Nat.zero_le _⟩

theorem addPart_mapOk {budget : Nat} {b : DumpBuild} (h : b.MapOk budget) (guard source : Nat) (p : DumpPart) :
    (b.addPart guard budget source p).MapOk budget :=
  addPart_keeps (P := DumpBuild.MapOk budget) (fun _ _ _ _ h => h) (fun _ p h => addMember_mapOk h p)
    (fun _ _ p h => addClaim_mapOk h p) source p h

/-- R9: of a replica in RUN. -/
theorem RunFrom.mapOk {s : State} {r : Replica} {i : Byte} {ss : List Silence} (h : RunFrom s r i ss)
    (run : s.ctl.station = .run → s.engine.replica.MapOk s.cfg.budget)
    (build : ∀ b, s.engine.build = some b → b.MapOk s.cfg.budget) : r.MapOk s.cfg.budget := by
  cases h with
  | kept was => exact run was
  | placed was source es => exact placeEntries_mapOk es (run was)
  | joined was => exact joined_mapOk _ (run was)
  | evicted was => exact evictPairs_mapOk _ (run was)
  | shed was l => exact shedReplica_mapOk l (run was)
  | founded => exact founding_mapOk _ _
  | installed was source p => exact addPart_mapOk (build _ was) _ _ _

theorem BuildFrom.mapOk {s : State} {b : DumpBuild} (h : BuildFrom s b)
    (build : ∀ b, s.engine.build = some b → b.MapOk s.cfg.budget) : b.MapOk s.cfg.budget := by
  cases h with
  | @kept b was => exact build b was
  | opened => exact opened_mapOk _ _ _
  | part was => exact addPart_mapOk (build _ was) _ _ _

theorem effect_slotMapLaw {c : Instr} {s t : State} (h : SlotMapLaw s) (effect : Effect c s t) : SlotMapLaw t := by
  obtain ⟨run, build, placed⟩ := h
  have result := effect_engineEnd placed effect
  refine ⟨fun now => ?_, fun b now => ?_, result.placed⟩
  · rcases result with ⟨outside, -⟩ | step
    · exact absurd now outside
    · rw [step.cfg]
      exact (step.run now).mapOk run build
  · rcases result with ⟨-, none⟩ | step
    · rw [none] at now
      cases now
    · rw [step.cfg]
      exact (step.build b now).mapOk build

/-- Settles O51: what an effect makes of the replica and the dump build keeps the law of the Slot Map. -/
theorem slotMapLawKept : Obligations.SlotMapLawKept :=
  fun _ _ => step_keeps (P := SlotMapLaw) (fun _ _ h => h) fun _ _ _ h effect => effect_slotMapLaw h effect

/-! ## O53: the Roster and the Claim List -/

theorem opened_membersOk (guard source : Nat) (f : DumpOpen) : (DumpBuild.opened source f).MembersOk guard :=
  ⟨⟨.nil, fun m hm => by simp [DumpBuild.opened] at hm⟩, .nil, fun c hc => by simp [DumpBuild.opened] at hc⟩

theorem addPart_membersOk {guard : Nat} {b : DumpBuild} (h : b.MembersOk guard) (budget source : Nat) (p : DumpPart) :
    (b.addPart guard budget source p).MembersOk guard :=
  addPart_keeps (P := DumpBuild.MembersOk guard) (fun _ _ _ _ h => h) (fun _ p h => addMember_membersOk h p)
    (fun _ _ p h => addClaim_membersOk h p) source p h

/-- R7, R11: of a replica in RUN, when the sources in the queue and the own identity are station identities. -/
theorem RunFrom.membersOk {s : State} {r : Replica} {i : Byte} {ss : List Silence} (h : RunFrom s r i ss)
    (run : s.ctl.station = .run → s.engine.replica.MembersOk s.cfg.guard s.own)
    (build : ∀ b, s.engine.build = some b → b.MembersOk s.cfg.guard)
    (sources : ∀ r ∈ s.line.inbound, 1 ≤ r.source ∧ r.source ≤ 30)
    (own : s.ctl.station.listening = true → 1 ≤ s.own ∧ s.own ≤ 30) : r.MembersOk s.cfg.guard s.own := by
  cases h with
  | kept was => exact run was
  | placed was source es => exact placeEntries_membersOk es (run was)
  | joined was queued => exact joined_membersOk (sources _ queued).1 (sources _ queued).2 (run was)
  | evicted was others => exact evictPairs_membersOk _ (run was) others
  | shed was l => exact shedReplica_membersOk l (run was)
  | founded listening => exact founding_membersOk _ (own listening).1 (own listening).2
  | installed was source p complete =>
    obtain ⟨roster, claims⟩ := addPart_membersOk (build _ was) s.cfg.budget source p
    exact ⟨roster, complete_member complete, claims⟩

theorem BuildFrom.membersOk {s : State} {b : DumpBuild} (h : BuildFrom s b)
    (build : ∀ b, s.engine.build = some b → b.MembersOk s.cfg.guard) : b.MembersOk s.cfg.guard := by
  cases h with
  | @kept b was => exact build b was
  | opened => exact opened_membersOk _ _ _
  | part was => exact addPart_membersOk (build _ was) _ _ _

/-- R47: a message read has a station identity as its source. -/
theorem readMessage_source {chars : List Byte} {m : Message} (h : readMessage chars = some m) :
    1 ≤ m.source ∧ m.source ≤ 30 := by
  unfold readMessage at h
  split at h
  · split at h
    · dsimp only at h
      split at h
      next valid =>
        split at h
        · split at h
          · cases h
            exact valid.2
          · cases h
        · cases h
      · cases h
    · cases h
  · cases h

theorem accepts_source {s : State} {m : Reception} {msg : Message} (h : Accepts s m msg) :
    1 ≤ msg.source ∧ msg.source ≤ 30 := by
  obtain ⟨-, -, read, -⟩ := h
  unfold Reception.message at read
  split at read
  · exact readMessage_source read
  · cases read

/-- R55: every source in the queue is a station identity. -/
theorem effect_sources {c : Instr} {s t : State} (h : ∀ r ∈ s.line.inbound, 1 ≤ r.source ∧ r.source ≤ 30)
    (effect : Effect c s t) : ∀ r ∈ t.line.inbound, 1 ≤ r.source ∧ r.source ≤ 30 := by
  rcases effect_inbound effect with ⟨old, -⟩ | ⟨m, msg, boundary, accepts, -, eq⟩
  · exact fun r hr => h r (old r hr)
  · intro r hr
    rw [eq] at hr
    rcases List.mem_append.mp hr with old | new
    · exact h r old
    · obtain rfl := List.mem_singleton.mp new
      exact accepts_source accepts

/-- A station that listens, or is reading its image, has an identity of 1 to 30. -/
def Identified (s : State) : Prop :=
  s.ctl.station.listening = true ∨ s.loader.phase = .reading → 1 ≤ s.own ∧ s.own ≤ 30

theorem Identified.of_eq {s t : State} (h : Identified s) (loader : t.loader = s.loader)
    (listening : t.ctl.station.listening = true → s.ctl.station.listening = true) : Identified t := by
  intro active
  rw [loader] at active
  rw [show t.own = s.own from congrArg Loader.strap loader]
  exact h (active.imp_left listening)

/-- The end of an attempt of a station that listens while it sends. -/
theorem attemptEnd_identified {s t : State} (h : Identified s) (law : AttemptLaw s) (loader : t.loader = s.loader)
    (stands : s.line.attempt = none → t = s) : Identified t := by
  refine h.of_eq loader fun now => ?_
  by_contra deaf
  rw [stands (law.1 (by simpa using deaf))] at now
  exact deaf now

theorem loud_identified {c : Instr} {s t : State} (h : Identified s) (law : AttemptLaw s) (loud : Loud c s t) :
    Identified t := by
  cases loud with
  | coldReset => exact fun active => by simp [State.coldReset, State.reset, StationState.listening] at active
  | strapsTaken loading waiting lo hi => exact fun _ => ⟨lo, hi⟩
  | halt => exact fun active => by simp [State.halt, StationState.listening] at active
  | configured read loading reading => exact fun _ => h (.inr reading)
  | periodStart pull => exact h.of_eq (by simp) (by rw [periodStart_listening]; exact id)
  | dumpTimesOut receiving => exact h.of_eq rfl fun _ => by rw [receiving]; rfl
  | attemptStart =>
    obtain ⟨cs, f, a, eq, -, -⟩ := tryBuilds_eq allSlots.length (allSlots.filter s.ready) s
    rw [eq, withAttempt_frame]
    exact h
  | attemptLost => exact attemptEnd_identified h law (by simp) fun none => by simp [State.attemptLost, none]
  | brokenOff => exact attemptEnd_identified h law (by simp) fun none => by simp [State.attemptFailed, none]
  | failed others received => exact h.of_eq (by simp) fun _ => receives_listening received
  | @accepted m msg accepts single agreed =>
    have loader : ∀ queued boundary, (s.acceptedBy queued boundary msg).loader = s.loader := by
      intro queued boundary
      cases attempt : s.line.attempt <;> simp [State.acceptedBy, State.ownEnd, attempt]
    exact h.of_eq (loader _ _) fun _ => receives_listening accepts.1
  | applied head record =>
    have listening := useHead_listening head
    cases record with
    | warmRestart => exact h.of_eq (by simp) fun _ => listening
    | failDump => exact h.of_eq rfl fun _ => listening
    | installDump => exact h.of_eq rfl fun _ => listening

/-- A station keeps its identity: one that sends listens. -/
theorem effect_identified {c : Instr} {s t : State} (h : Identified s) (law : AttemptLaw s) (placed : BuildPlaced s)
    (effect : Effect c s t) : Identified t := by
  rcases effect_cases effect with loud | rests | ⟨r, u, head, applied, rfl⟩
  · exact loud_identified h law loud
  · exact h.of_eq rests.loader (by rw [rests.ctl]; exact id)
  · intro _
    have own := (appliedQuiet_engineStep placed (useHead_mem head) applied).own
    rw [show u.dropHead.own = u.own from rfl, own]
    exact h (.inl (useHead_listening head))

/-- The parts of `MembershipLaw` about the replica and the dump build. -/
theorem effect_membersOk {c : Instr} {s t : State} (h : MembershipLaw s) (effect : Effect c s t) :
    (t.ctl.station = .run → t.engine.replica.MembersOk t.cfg.guard t.own) ∧
      (∀ b, t.engine.build = some b → b.MembersOk t.cfg.guard) ∧ BuildPlaced t := by
  obtain ⟨run, build, sources, own, placed⟩ := h
  have result := effect_engineEnd placed effect
  refine ⟨fun now => ?_, fun b now => ?_, result.placed⟩
  · rcases result with ⟨outside, -⟩ | step
    · exact absurd now outside
    · rw [step.cfg, step.own]
      exact (step.run now).membersOk run build sources fun listening => own (.inl listening)
  · rcases result with ⟨-, none⟩ | step
    · rw [none] at now
      cases now
    · rw [step.cfg]
      exact (step.build b now).membersOk build

/-- R7, R11: every step keeps the laws of the Roster and the Claim List of a station that has an attempt under way only while it
listens (R38); O53 does not ask for that. -/
theorem membershipLaw_step {s t : State} (h : MembershipLaw s) (law : AttemptLaw s) (hs : step s = .next t) :
    MembershipLaw t ∧ AttemptLaw t := by
  refine step_keeps (P := fun s => MembershipLaw s ∧ AttemptLaw s) (fun _ _ h => h) ?_ ⟨h, law⟩ hs
  rintro c s t ⟨h, law⟩ effect
  obtain ⟨run, build, placed⟩ := effect_membersOk h effect
  obtain ⟨-, -, sources, own, was⟩ := h
  exact ⟨⟨run, build, effect_sources sources effect, effect_identified own law was effect, placed⟩,
    effect_attemptLaw law effect⟩

/-! ### What holds in RUN -/

/-- R119: a Roster entry that another takes the place of, or is put beside, is not the own one. -/
theorem memberOf_insertMember {own : Nat} {x : Member} (other : x.station ≠ own) (ms : List Member) :
    memberOf (insertMember x ms) own = memberOf ms own := by
  have skip : ∀ ys, memberOf (x :: ys) own = memberOf ys own := fun ys => List.find?_cons_of_neg (by simpa using other)
  induction ms with
  | nil => exact skip []
  | cons m ms ih =>
    unfold insertMember
    split
    · exact skip _
    · simp only [memberOf, List.find?_cons]
      split
      · rfl
      · exact ih

/-- R119: another station's JOIN leaves the own Roster entry. -/
theorem memberOf_joinRoster {own source : Nat} (other : source ≠ own) (ms : List Member) :
    memberOf (joinRoster source ms) own = memberOf ms own := by
  unfold joinRoster
  split
  · clear * - other
    induction ms with
    | nil => rfl
    | cons m ms ih =>
      simp only [memberOf, List.map_cons, List.find?_cons] at ih ⊢
      by_cases joins : m.station = source
      · have differs : (source == own) = false := by simpa using other
        simp only [joins, if_true, differs]
        exact ih
      · rw [if_neg joins]
        split
        · rfl
        · exact ih
  · exact memberOf_insertMember other ms

/-- R119: the eviction of other stations leaves the own Roster entry. -/
theorem memberOf_evictPairs {own : Nat} (ps : List Pair) {r : Replica} (others : (evictPairs own r ps).2 = false) :
    memberOf (evictPairs own r ps).1.roster own = memberOf r.roster own := by
  induction ps generalizing r with
  | nil => rfl
  | cons p ps ih =>
    unfold evictPairs at others ⊢
    by_cases matching : pairMatches r.roster p = true
    · rw [if_pos matching] at others ⊢
      by_cases self : p.station.toNat = own
      · rw [if_pos self] at others
        cases others
      · rw [if_neg self] at others ⊢
        rw [ih others]
        simp only [memberOf, Replica.evictStation_roster, List.find?_filter]
        congr 1
        funext m
        by_cases same : m.station = own
        · simp [same, Ne.symm self]
        · simp [same]
    · rw [if_neg matching] at others ⊢
      exact ih others

/-- R15, R119, R121: own incarnation and silence counters agree with a Roster. -/
def Follows (own : Nat) (ms : List Member) (incarnation : Byte) (ss : List Silence) : Prop :=
  memberOf ms own = some { station := own, incarnation := incarnation } ∧ CountersFor own ms ss

theorem fresh_follows {own : Nat} {ms : List Member} (law : RosterLaw ms) (member : isMember ms own = true) :
    Follows own ms (incarnationIn own ms) (freshSilence own ms) :=
  ⟨memberOf_incarnationIn member, freshSilence_counters law⟩

/-- R119, R121: in RUN, own incarnation and silence counters follow the Roster. -/
theorem RunFrom.follows {s : State} {r : Replica} {i : Byte} {ss : List Silence} (h : RunFrom s r i ss)
    (run : s.ctl.station = .run →
      Follows s.own s.engine.replica.roster s.ctl.ownIncarnation s.ctl.silence)
    (ok : r.MembersOk s.cfg.guard s.own) : Follows s.own r.roster i ss := by
  cases h with
  | kept was cursor stations => exact ⟨(run was).1, (run was).2.map stations⟩
  | placed was source es =>
    rw [show (s.placedReplica source es).counted.roster = s.engine.replica.roster from (placeEntries_spec _ _ _ _ _).2.1]
    exact run was
  | @joined was r queued =>
    obtain ⟨member, counters⟩ := run was
    refine ⟨?_, counters.join⟩
    show memberOf (joinRoster r.source s.engine.replica.roster) s.own = _
    split
    next own =>
      rw [own]
      refine memberOf_incarnationIn ?_
      rw [isMember_joinRoster]
      exact .inr rfl
    next other => rw [memberOf_joinRoster other, member]
  | @evicted was ps others =>
    obtain ⟨member, counters⟩ := run was
    refine ⟨(memberOf_evictPairs ps others).trans member, counters.prune fun st stays => ?_⟩
    obtain ⟨-, roster, -⟩ := evictPairs_spec s.own ps s.engine.replica
    obtain ⟨m, mem, eq⟩ := (isMember_iff _ _).mp stays
    exact (isMember_iff _ _).mpr ⟨m, roster.subset mem, eq⟩
  | shed was l =>
    rw [show (s.shedTo l).counted.roster = s.engine.replica.roster from (shedReplica_roster _ _ _).1]
    exact run was
  | founded => exact fresh_follows ok.1 ok.2.1
  | installed => exact fresh_follows ok.1 ok.2.1

theorem effect_runLaw {c : Instr} {s t : State} (h : MembershipLaw s) (law : RunLaw s) (effect : Effect c s t) :
    RunLaw t := by
  intro now
  obtain ⟨ok, -, -⟩ := effect_membersOk h effect
  have replica := ok now
  obtain ⟨-, -, -, -, placed⟩ := h
  rcases effect_engineEnd placed effect with ⟨outside, -⟩ | step
  · exact absurd now outside
  rw [step.cfg, step.own] at replica
  have follows := (step.run now).follows (fun was => ⟨(law was).2.1, (law was).2.2⟩) replica
  rw [← step.own] at follows
  refine ⟨?_, follows⟩
  rcases step.check now with fresh | ⟨was, same, check⟩
  · exact fresh
  · rw [same, check]
    exact (law was).1

/-- R15, R119, R121: every step keeps the held check, the own incarnation and the silence counters of a member. This half of O53
holds as it is stated. -/
theorem runLaw_step {s t : State} (h : MembershipLaw s) (law : RunLaw s) (hs : step s = .next t) : RunLaw t := by
  rcases step_effect hs with rfl | ⟨_, rest, -, -, effect⟩
  · exact law
  · exact effect_runLaw (s := { s with pending := rest }) h law effect

/-! ### O53: its first half fails -/

/-- A station at LOADING with an attempt under way, of a FOUND at its sixteenth failure, which no run of the model brings about. -/
def deafSender : State :=
  { State.reset with
    pending := [.senderBreakOff]
    line :=
      { State.reset.line with
        attempt :=
          some
            { slot := .joinFound
              message := { priority := 0, lock := false, source := 0, dest := 0, payload := .found 0 0 }
              snapshot := none, crossed := false }
        slots := { TxSlots.empty with joinFound := { attempts := 15, held := false }, joinFoundHolds := some .found } } }

/-- Refutes O53: the law does not say that a station with an attempt under way listens (`AttemptLaw`), and the end of such an attempt
can return a station that has no identity to JOIN-SEND, where it listens. `membershipLaw_step` says that the law is kept where
`AttemptLaw` holds, `runLaw_step` that the second half of O53 holds. -/
theorem not_membershipLawKept : ¬ Obligations.MembershipLawKept := by
  rintro ⟨kept, -⟩
  have before : MembershipLaw deafSender := by
    refine ⟨fun run => (by cases run), fun b build => (by cases build), fun r queued => (by cases queued),
      fun active => ?_, fun built => (by cases built)⟩
    simp [deafSender, State.reset, StationState.listening] at active
  have breakOff : step deafSender = .next (({ deafSender with pending := [] } : State).attemptFailed false) := rfl
  obtain ⟨-, -, -, own, -⟩ := kept _ _ before breakOff
  have identity := (own (.inl rfl)).1
  exact absurd identity (by decide)

end Sys2Proof.Machine

/-! The step, the reset, the straps, the entry to HALTED, and the receiving side of the share line. -/

namespace Sys2Proof.Machine

/-! ## O1, O4, O5: the step, the reset and the straps -/

/-- Settles O1. -/
theorem stepRunsFront : Obligations.StepRunsFront :=
  ⟨fun _ _ _ queue => by simp only [step, queue], fun _ queue => by simp only [step, queue]⟩

/-- Settles O4: a short pulse is taken, or only counted. -/
theorem coldResetTakesEffect : Obligations.ColdResetTakesEffect := by
  intro s
  refine ⟨rfl, rfl, ?_⟩
  by_cases taken : Config.shortResetTaken s.freeIndex = true
  · exact ⟨_, congrArg Host.Outcome.next (if_pos taken), .inr rfl⟩
  · exact ⟨_, congrArg Host.Outcome.next (if_neg taken), .inl rfl⟩

/-- R178: entry to HALTED keeps the configuration. -/
theorem halt_sameConfiguration (s : State) (cause : HaltCause) : SameConfiguration s (s.halt cause) := by
  refine ⟨rfl, rfl, rfl, rfl, rfl, fun n => ⟨((halt_chansMove s cause).2 n).config, ?_, rfl⟩⟩
  rw [show (s.halt cause).out = s.out.emptied from rfl, emptied_out_get]
  rfl

theorem halt_faultN (s : State) (cause : HaltCause) : (s.halt cause).faultN = true := by
  simp [State.faultN, State.halt]

/-- Settles O5: the loader waits, and the straps decide. -/
theorem strapsRead : Obligations.StrapsRead := by
  intro s straps loading waiting
  have waits : s.loaderWaits = true := by simp [State.loaderWaits, loading, waiting]
  refine ⟨fun ⟨lo, hi⟩ => ?_, fun refused => ?_⟩
  · have ok : strapOk straps.toNat = true := by simp [strapOk, lo, hi]
    show execConfigurationLoaderStart straps s = _
    rw [execConfigurationLoaderStart, if_pos waits, if_pos ok]
  · have bad : ¬ strapOk straps.toNat = true := by
      rcases refused with eq | eq <;> simp [strapOk, eq]
    refine ⟨({ s with loader := { s.loader with strap := straps.toNat } } : State).halt .strap, ?_, rfl, rfl, rfl, rfl,
      halt_faultN _ _, halt_sameConfiguration { s with loader := { s.loader with strap := straps.toNat } } _⟩
    show execConfigurationLoaderStart straps s = _
    rw [execConfigurationLoaderStart, if_pos waits, if_neg bad]

/-! ## O18: entry to HALTED -/

/-- Settles O18: a loss after the source field halts, and `haltedBy` says what becomes of each block. -/
theorem haltedBlocks : Obligations.HaltedBlocks := by
  intro s a char bit sending late recessive
  have step : exec (.arbitrationLoss char bit) s = .next (s.halt .duplicate) := by
    show execArbitrationLoss char bit s = _
    rw [execArbitrationLoss, sending]
    dsimp only
    rw [if_pos recessive, if_pos late]
  refine ⟨_, step, halt_faultN _ _, rfl, rfl, rfl, rfl, rfl, rfl, outActive_outside_run (by simp [State.halt]), fun n => ?_,
    rfl, rfl, rfl, rfl, rfl, rfl, halt_sameConfiguration _ _, halt_eq_haltedBy _ _⟩
  rw [show (s.halt .duplicate).chans = s.chans.map Channel.restart from rfl, Four.get_map]
  exact restart_eq _

/-! ## O13: idle, cut short, and the run that times out -/

/-- Settles O13: of a run that times out, whether the dump was open decides. -/
theorem idleAndRunTimeout : Obligations.IdleAndRunTimeout := by
  intro s listening unsent
  have rests : (s.ctl.station.listening && s.line.attempt.isNone) = true := by simp [listening, unsent]
  refine ⟨?_, ?_, fun o owner => ?_⟩
  · show execLineIdle s = _
    rw [execLineIdle, if_pos rests]
  · show execMessageCutShort s = _
    rw [execMessageCutShort, if_pos rests]
  have open_run : (s.ctl.station.listening && s.line.runOwner.isSome && s.line.attempt.isNone) = true := by
    simp [listening, unsent, owner]
  refine ⟨fun closed => ?_, fun b receiving build notClosing => ?_⟩
  · show execRunLockTimeout s = _
    rw [execRunLockTimeout, if_pos open_run]
    refine congrArg Host.Outcome.next (if_neg ?_)
    rcases closed with other | ⟨b, build, closing⟩
    · simp [State.dumpOpenEnded, other]
    · simp [State.dumpOpenEnded, build, closing]
  · show execRunLockTimeout s = _
    rw [execRunLockTimeout, if_pos open_run]
    exact congrArg Host.Outcome.next (if_pos (by simp [State.dumpOpenEnded, receiving, build, notClosing]))

/-! ## O14: the trailer -/

/-- R49: the veto of a station in RUN. -/
theorem vetoes_iff (s : State) (st : StationState) (p : Payload) :
    s.vetoes st p = true ↔
      st = .run ∧ (p.kind = 2 ∨ ∃ e, p.e = some e ∧ 1 ≤ forward e s.line.lastE ∧ forward e s.line.lastE ≤ 127) := by
  cases p <;> simp [State.vetoes, Payload.kind, Payload.e, isBefore]

theorem listening_iff (st : StationState) : st.listening = true ↔ st ≠ .loading ∧ st ≠ .halted := by
  cases st <;> simp [StationState.listening]

/-- R53: the address filter, kind by kind. -/
theorem admits_iff (st : StationState) (own dest : Nat) (p : Payload) :
    st.admits own dest p = true ↔
      (p.kind ∈ [1, 5, 6, 7, 8, 10, 11] ∧ st = .run) ∨
      (p.kind = 2 ∧ (st = .joinWait ∨ st = .foundSend)) ∨
      (p.kind = 3 ∧ (st = .joinWait ∨ st = .foundSend ∨ st = .run)) ∨
      (p.kind = 4 ∧ st = .dumpReceive) ∨
      ((p.kind = 9 ∨ p.kind = 12) ∧ (dest = 0 ∨ dest = own) ∧ st ≠ .loading ∧ st ≠ .halted) := by
  cases p <;> simp [StationState.admits, Payload.kind, listening_iff, or_assoc]

/-- Settles O14: errors, vetoes and HOLDs, and the state each is judged by. -/
theorem trailerSignals : Obligations.TrailerSignals := by
  refine ⟨fun s m => ⟨fun nobody => ?_, fun somebody unread => ?_, fun msg somebody read => ⟨?_, ?_⟩⟩,
    fun s m msg => admits_iff _ _ _ _, fun s m => ⟨fun none => ?_, fun x given => ?_⟩⟩
  · simp [State.signalsError, State.signalsHold, nobody]
  · simp [State.signalsError, State.signalsHold, somebody, unread]
  · rw [signalsError_of_message somebody read]
    exact vetoes_iff _ _ _
  · rw [signalsHold_of_message somebody read]
    simp
  · exact trailerOf_none none
  · exact trailerOf_some given

/-! ## The acceptance of a message, block by block -/

/-- R51, R52: what an accepted message is taken to. -/
theorem exec_accepted {s : State} {m : Reception} {msg : Message} (h : Accepts s m msg) :
    exec (.messageAccepted m) s = .next (s.accept (s.queues m msg) m.boundary msg) := by
  obtain ⟨received, somebody, read, noError, noHold⟩ := h
  show execMessageAccepted m s = _
  simp only [execMessageAccepted, received, somebody, noError, noHold, read, Bool.false_eq_true, if_true, if_false,
    Bool.or_self]

/-- R27: the timer after an acceptance outside a run of its own. -/
def State.timerHeard (s : State) (boundary : Bool) (msg : Message) : PeriodTimer :=
  if s.ctl.station.adopts && !boundary && msg.source != s.own then
    match msg.payload.period? with
    | some p => { s.timer with period := p, adoptionWait := 0 }
    | none => s.timer
  else s.timer

theorem acceptPeriod_eq (s : State) (boundary : Bool) (msg : Message) :
    s.acceptPeriod boundary msg = { s with timer := s.timerHeard boundary msg } := by
  unfold State.acceptPeriod State.timerHeard
  split
  · cases msg.payload.period? <;> rfl
  · rfl

/-- R31, R53, R55, R58, R59: what an acceptance marks, the decision and the own attempt left out. -/
theorem heard_eq (s : State) (m : Reception) (msg : Message) (boundary : Bool) :
    s.heard (s.queues m msg) boundary msg =
      { s with
        line := s.line.accepted msg (s.queueAfter m msg boundary) s.line.slots
        ctl := s.ctl.heardFrom msg.source
        timer := s.timerHeard boundary msg } := by
  have line : (s.heard (s.queues m msg) boundary msg).line =
      s.line.accepted msg (s.queueAfter m msg boundary) s.line.slots := by
    rw [← acceptQueue_queueAfter, acceptQueue_inbound, heard_line, newLastE_eq]
    rfl
  have timer : (s.heard (s.queues m msg) boundary msg).timer = s.timerHeard boundary msg := heard_timer ..
  have rest : s.heard (s.queues m msg) boundary msg =
      { s with
        line := (s.heard (s.queues m msg) boundary msg).line
        ctl := (s.heard (s.queues m msg) boundary msg).ctl
        timer := (s.heard (s.queues m msg) boundary msg).timer } := by
    rw [State.heard, acceptPeriod_eq]
    cases s.queues m msg <;> rfl
  rw [rest, line, timer, heard_ctl]

/-- R52: an accepted message of another station. -/
theorem exec_acceptedOther {s : State} {m : Reception} {msg : Message} (h : AcceptsOther s m msg) :
    exec (.messageAccepted m) s =
      .next ((s.heard (s.queues m msg) m.boundary msg).acceptDecision m.boundary msg).settleSlots := by
  obtain ⟨accepts, unsent, other, agreed⟩ := h
  rw [exec_accepted accepts]
  rcases accept_cases s (s.queues m msg) m.boundary msg with ⟨duplicate, -⟩ | ⟨mismatched, -⟩ | ⟨-, -, eq⟩
  · simp [State.duplicate, other] at duplicate
  · rw [agreed] at mismatched
    cases mismatched
  · rw [eq]
    simp only [State.boundaryOf, unsent, State.ownEnd]

/-! ## O15: acceptance in RUN -/

/-- R31: last-e follows the e-stamp of a state-changing message. -/
theorem newLastE_stamp {old e : Byte} {p : Payload} (h : p.e = some e) : newLastE old p = e := by
  cases p <;> simp_all [newLastE, Payload.e]

theorem newLastE_none {old : Byte} {p : Payload} (h : p.e = none) (notFound : p.kind ≠ 2) (notOpen : p.kind ≠ 3) :
    newLastE old p = old := by
  cases p <;> simp_all [newLastE, Payload.e, Payload.kind]

/-- Settles O15: a member in RUN decides nothing at an acceptance. -/
theorem acceptedInRun : Obligations.AcceptedInRun := by
  refine ⟨fun s m msg other run => ?_, fun s m received nobody => ?_⟩
  · have decision : (s.heard (s.queues m msg) m.boundary msg).acceptDecision m.boundary msg =
        s.heard (s.queues m msg) m.boundary msg := by
      refine decided_run ?_ (acceptDecision_decided _ _ _)
      rw [heard_ctl]
      exact run
    have timer : s.timerHeard m.boundary msg = s.timer := by simp [State.timerHeard, run, StationState.adopts]
    refine ⟨_, exec_acceptedOther other, ?_⟩
    rw [decision, settleSlots_eq, heard_eq, timer]
    refine ⟨?_, ?_, ?_, ?_, ?_, rfl, rfl, rfl, rfl, rfl, rfl, rfl, rfl, rfl, rfl⟩
    · have queue : s.queueAfter m msg m.boundary =
          if s.admits m msg = true ∧ (s.trailerOf m).holdState = .run then s.line.inbound ++ [s.recordOf m.boundary msg]
          else s.line.inbound := by
        rw [State.queueAfter, run]
        rfl
      rw [queue]
      dsimp only [LineInterface.accepted]
      congr 1
      exact other.2.1.symm
    · exact fun e stamp => (newLastE_eq _ _).symm.trans (newLastE_stamp stamp)
    · rintro f payload
      simp only [LineInterface.accepted, payload]
    · rintro p d payload
      simp only [LineInterface.accepted, payload]
    · exact fun none notFound notOpen => (newLastE_eq _ _).symm.trans (newLastE_none none notFound notOpen)
  · show execMessageAccepted m s = _
    rw [execMessageAccepted, if_pos received, if_pos nobody]

/-! ## O16: the period number -/

theorem adopts_iff (st : StationState) : st.adopts = true ↔ st = .joinSend ∨ st = .joinWait ∨ st = .foundSend := by
  cases st <;> simp [StationState.adopts]

/-- Settles O16: the decision leaves the timer that the acceptance has set. -/
theorem periodAdopted : Obligations.PeriodAdopted := by
  intro s m msg other joining
  have foreign : (msg.source != s.own) = true := bne_iff_ne.mpr other.2.2.1
  have adopts := (adopts_iff _).mpr joining
  refine ⟨_, exec_acceptedOther other, ?_⟩
  rw [State.settleSlots_timer, State.acceptDecision_timer, heard_timer, adopts, foreign]
  refine ⟨?_, fun boundary => ?_, fun notPresence notFound notOpen => ?_⟩
  · rintro p (⟨n, c, i, eq⟩ | ⟨d, eq⟩ | ⟨f, eq, rfl⟩) inside <;> simp [eq, inside, Payload.period?]
  · simp [boundary]
  · cases payload : msg.payload <;> simp_all [Payload.kind, Payload.period?]

/-! ## O17: acceptance that halts -/

/-- Settles O17. -/
theorem acceptanceHalts : Obligations.AcceptanceHalts := by
  intro s m msg accepts
  refine ⟨fun own unsent => ?_, fun other joining differs => ?_, fun cause => ⟨rfl, rfl, rfl, rfl, rfl, rfl, ?_⟩⟩
  · have duplicate : s.duplicate msg = true := by simp [State.duplicate, own, unsent]
    rw [exec_accepted accepts, State.accept, if_pos duplicate, halt_eq_haltedBy]
  · have single : ¬ s.duplicate msg = true := by simp [State.duplicate, other]
    have mismatched : s.mismatched msg = true := by
      have state : (s.ctl.station == .joinWait || s.ctl.station == .foundSend) = true := by simpa using joining
      have foreign : (msg.source != s.own) = true := bne_iff_ne.mpr other
      rw [State.mismatched, state, foreign]
      rcases differs with ⟨p, d, eq, ne⟩ | ⟨f, eq, ne⟩ <;> simp [eq, Payload.digest?, ne]
    rw [exec_accepted accepts, State.accept, if_neg single, if_pos mismatched, halt_eq_haltedBy]
  · rw [← halt_eq_haltedBy]
    exact halt_faultN s cause

/-! ## O19: acceptance outside RUN -/

/-- Log entry 26: outside RUN a PLACE and an EVICT slot have no work. -/
theorem settleSlots_outside {s : State} (h : s.ctl.station ≠ .run) :
    s.settleSlots =
      { s with
        line :=
          { s.line with
            slots :=
              { s.line.slots with
                place := { s.line.slots.place with attempts := 0 }, evict := { s.line.slots.evict with attempts := 0 } } } } := by
  rw [settleSlots_eq]
  simp only [State.settled, h, false_and, if_false]

/-- R27: the timer after an acceptance, in the words of the statement. -/
theorem timerHeard_eq {s : State} {boundary : Bool} {msg : Message} (foreign : msg.source ≠ s.own) :
    s.timerHeard boundary msg =
      match (match msg.payload with
        | .presence p _ _ _ => some p
        | .found p _ => some p
        | .dumpOpen f => some f.period
        | _ => none) with
      | some p =>
        if (s.ctl.station = .joinSend ∨ s.ctl.station = .joinWait ∨ s.ctl.station = .foundSend) ∧ boundary = false then
          { s.timer with period := p, adoptionWait := 0 }
        else s.timer
      | none => s.timer := by
  have condition : (s.ctl.station.adopts && !boundary && msg.source != s.own) = true ↔
      (s.ctl.station = .joinSend ∨ s.ctl.station = .joinWait ∨ s.ctl.station = .foundSend) ∧ boundary = false := by
    simp [adopts_iff, foreign]
  unfold State.timerHeard
  rw [if_congr condition rfl rfl]
  cases msg.payload <;> simp [Payload.period?]

section Decisions

variable {s : State} {boundary : Bool} {msg : Message}

theorem acceptDecision_joinSend (station : s.ctl.station = .joinSend) : s.acceptDecision boundary msg = s := by
  simp only [State.acceptDecision, station]

theorem acceptDecision_otherKind (station : s.ctl.station = .joinWait ∨ s.ctl.station = .foundSend)
    (notFound : msg.payload.kind ≠ 2) (notOpen : msg.payload.kind ≠ 3) : s.acceptDecision boundary msg = s := by
  rcases station with eq | eq <;> simp only [State.acceptDecision, eq, ite_eq_left_iff] <;> intro _ <;>
    cases payload : msg.payload <;> simp_all [Payload.kind]

theorem acceptDecision_dumpOpen {f : DumpOpen} (station : s.ctl.station = .joinWait ∨ s.ctl.station = .foundSend)
    (foreign : msg.source ≠ s.own) (payload : msg.payload = .dumpOpen f) :
    s.acceptDecision boundary msg =
      if boundary then (if s.ctl.station = .joinWait then s else s.returnToJoinSend) else s.enterDumpReceive msg.source f := by
  rcases station with eq | eq <;> cases boundary <;> simp [State.acceptDecision, eq, foreign, payload]

theorem acceptDecision_found {p : Byte} {d : Word16} (station : s.ctl.station = .joinWait ∨ s.ctl.station = .foundSend)
    (foreign : msg.source ≠ s.own) (payload : msg.payload = .found p d) :
    s.acceptDecision boundary msg = s.returnToJoinSend := by
  rcases station with eq | eq <;> simp [State.acceptDecision, eq, foreign, payload]

theorem failsDump_iff (p : Payload) : p.failsDump = true ↔ p.kind ≠ 4 := by
  cases p <;> simp [Payload.failsDump, Payload.kind]

theorem acceptDecision_dumpReceive {b : DumpBuild} (station : s.ctl.station = .dumpReceive)
    (build : s.engine.build = some b) :
    s.acceptDecision boundary msg =
      if b.closing = true then s
      else if msg.payload.kind ≠ 4 then s.failDump
      else if msg.source = b.source ∧ msg.lock = false then
        { s with engine := { s.engine with build := some { b with closing := true } } }
      else s := by
  simp only [State.acceptDecision, station, build, failsDump_iff]

end Decisions

/-- Settles O19: the decision, state by state, of what the acceptance has marked. -/
theorem joinerDecisions : Obligations.JoinerDecisions := by
  intro s m msg other outside st joins waits next queue line ctl period timer stays returns
  have timer_eq : timer = s.timerHeard m.boundary msg := (timerHeard_eq other.2.2.1).symm
  have foreign : msg.source ≠ s.own := other.2.2.1
  let marked : State :=
    { s with
      line := s.line.accepted msg queue s.line.slots, ctl := ctl, timer := timer }
  have becomes : ∀ d : State, d.ctl.station ≠ .run → marked.acceptDecision m.boundary msg = d → next d.settleSlots := by
    intro d _ eq
    show exec _ s = _
    rw [exec_acceptedOther other, heard_eq, ← timer_eq, ← eq]
  have standing : marked.acceptDecision m.boundary msg = marked → next stays := by
    intro eq
    have := becomes marked outside eq
    rwa [settleSlots_outside (s := marked) outside] at this
  have returning : marked.acceptDecision m.boundary msg = marked.returnToJoinSend → next returns := by
    intro eq
    have := becomes marked.returnToJoinSend (by simp [State.returnToJoinSend]) eq
    rwa [settleSlots_outside (s := marked.returnToJoinSend) (by simp [State.returnToJoinSend])] at this
  have station : marked.ctl.station = s.ctl.station := rfl
  refine ⟨fun eq => standing (acceptDecision_joinSend eq), fun eq notFound notOpen => ?_, fun f payload eq inside => ?_,
    fun f payload eq crossed => ?_, fun f payload eq crossed => ?_, fun p d payload eq => ?_, fun b eq build => ⟨?_, ?_, ?_, ?_⟩⟩
  · exact standing (acceptDecision_otherKind eq notFound notOpen)
  · have opened := becomes (marked.enterDumpReceive msg.source f) (by simp [State.enterDumpReceive])
      (by rw [acceptDecision_dumpOpen (s := marked) eq foreign payload, if_neg (by simp [inside])])
    rwa [settleSlots_outside (by simp [State.enterDumpReceive])] at opened
  · exact standing (by
      rw [acceptDecision_dumpOpen (s := marked) (.inl eq) foreign payload, if_pos crossed]
      exact if_pos eq)
  · exact returning (by
      rw [acceptDecision_dumpOpen (s := marked) (.inr eq) foreign payload, if_pos crossed, if_neg]
      rw [station, show s.ctl.station = .foundSend from eq]
      simp)
  · exact returning (acceptDecision_found (s := marked) eq foreign payload)
  · rw [timer_eq, State.timerHeard, show s.ctl.station = .dumpReceive from eq]
    rfl
  · intro closing
    exact standing (by rw [acceptDecision_dumpReceive (s := marked) eq build, if_pos closing])
  · intro opened otherKind
    have failed := becomes marked.failDump (by simp [State.failDump, State.returnToJoinSend])
      (by rw [acceptDecision_dumpReceive (s := marked) eq build, if_neg (by simp [opened]), if_pos otherKind])
    rwa [settleSlots_outside (by simp [State.failDump, State.returnToJoinSend])] at failed
  · intro opened part
    have decision : marked.acceptDecision m.boundary msg =
        { marked with engine := { s.engine with
            build := some { b with closing := decide (msg.source = b.source ∧ msg.lock = false) } } } := by
      rw [acceptDecision_dumpReceive (s := marked) eq build, if_neg (by simp [opened]), if_neg (by simp [part])]
      by_cases closes : msg.source = b.source ∧ msg.lock = false
      · rw [if_pos closes, decide_eq_true closes]
      · have same : ({ b with closing := false } : DumpBuild) = b := by rw [← opened]
        rw [if_neg closes, decide_eq_false closes, same, ← build]
    have result := becomes _ (by exact outside) decision
    rwa [settleSlots_outside (by exact outside)] at result

end Sys2Proof.Machine

/-! The values of the reset, and the invariants there. -/

namespace Sys2Proof.Machine

/-- A pin of an output whose record has not been taken. -/
theorem outPin_unconfigured {s : State} (h : s.out.configured = false) (n : Num4) : s.outPin n = .released := by
  rw [State.outPin, h]
  rfl

/-- Settles O2. -/
theorem resetValues : Obligations.ResetValues := by
  refine ⟨⟨rfl, rfl, rfl, rfl, rfl, rfl, rfl⟩, ⟨rfl, rfl, rfl, rfl⟩, ⟨rfl, rfl, rfl, rfl, rfl, rfl, rfl, rfl, rfl⟩,
    ⟨rfl, rfl, rfl, rfl, rfl, rfl, rfl⟩, ⟨rfl, rfl, rfl, fun n => ?_⟩, fun n => ?_, ⟨rfl, fun n => ?_⟩,
    rfl, rfl, ?_, rfl, fun n => ⟨outPin_unconfigured rfl n, keyPin_stopped rfl n⟩⟩
  · simp [State.reset, OutChannel.untaken]
  · simp [State.reset, Channel.untaken]
  · simp [State.reset, Key.untaken]
  · rfl

/-- Settles O3: a station at LOADING with every queue and slot empty, and its records not taken. -/
theorem invariantsAtReset : Obligations.InvariantsAtReset := by
  have channels : ∀ n, State.reset.chans.get n = Channel.untaken := fun n => by simp [State.reset]
  have keys : ∀ n, State.reset.touch.key.get n = Key.untaken := fun n => by simp [State.reset]
  have outside : ∀ {P : Prop}, State.reset.ctl.station = .run → P := fun run => by cases run
  refine ⟨⟨outside, fun b build => (by cases build), fun build => (by cases build)⟩,
    reset_emptyOutsideRun State.reset .none,
    ⟨outside, fun b build => (by cases build), fun r queued => (by cases queued), fun active => ?_,
      fun build => (by cases build)⟩,
    outside, ⟨fun _ => rfl, fun waits => (by cases waits)⟩, Nat.zero_le _, outside, empty_bounded, fun n => ?_, fun n _ => ?_,
    fun n faulted => ?_, fun n => ?_⟩
  · simp [State.reset, StationState.listening] at active
  · rw [channels]
    exact untaken_ok
  · exact ⟨by simp [State.reset, OutChannel.untaken], by simp [State.reset]⟩
  · rw [channels] at faulted
    cases faulted
  · rw [keys]
    simp [KeyLaw, Key.untaken]

end Sys2Proof.Machine

/-! What a period start does (R22 to R25, R28, R34 to R37, R111, R120, R121, R161, R168, R170). -/

namespace Sys2Proof.Machine

/-! ## O9: edges and slots -/

/-- Settles O9. -/
theorem edgesAndSlots : Obligations.EdgesAndSlots := by
  intro s runs
  refine ⟨fun early started => ?_, fun inside => ?_⟩
  · have inside : decide (Config.edgeGuard ≤ s.timer.slot) = false := decide_eq_false (Nat.not_le.mpr early)
    have ignored : s.startArises .slnEdge = false := by simp [State.startArises, State.edgeTaken, started, inside]
    show execSlnFallingEdge s = _
    simp [execSlnFallingEdge, State.periodStartIf, ignored]
  · show execSlotBoundary s = _
    rw [execSlotBoundary, if_pos (by simp [runs, inside])]

/-! ## O10: the output stage -/

/-- R34: a queued e is late at `p` when `p` is not before it. -/
theorem lateAt_iff (p : Byte) (q : List Record) :
    lateAt p q = true ↔ ∃ r ∈ q, ∃ e, r.payload.e = some e ∧ ¬ (1 ≤ forward p e ∧ forward p e ≤ 127) := by
  simp only [lateAt, List.any_eq_true]
  refine exists_congr fun r => and_congr_right fun _ => ?_
  cases r.payload.e with
  | none => simp
  | some e =>
    simp [isAfter]
    omega

/-- R37, R156: entries of one channel that agree, applied one after another, are one change. -/
theorem applyPendings_own {xs : List PendingChange} {x : PendingChange} (h : x ∈ xs)
    (single : ∀ y ∈ xs, y.channel = x.channel → y = x) (o : Four OutChannel) :
    (xs.foldl applyPending o).get x.channel =
      { o.get x.channel with
        plan := x.placement
        lowCount := if x.placement = (o.get x.channel).plan then (o.get x.channel).lowCount else 0 } := by
  induction xs generalizing o with
  | nil => cases h
  | cons y ys ih =>
    have tail : ∀ z ∈ ys, z.channel = x.channel → z = x := fun z hz => single z (List.mem_cons_of_mem _ hz)
    rw [List.foldl_cons]
    by_cases own : y.channel = x.channel
    · obtain rfl := single y List.mem_cons_self own
      by_cases again : y ∈ ys
      · rw [ih again tail, applyPending_own]
        simp
      · rw [applyPendings_other (fun z hz same => again (tail z hz same ▸ hz)), applyPending_own]
    · have later : x ∈ ys := by
        rcases List.mem_cons.mp h with rfl | later
        · exact absurd rfl own
        · exact later
      rw [ih later tail, applyPending_other own]

/-- R154: what a period start leaves of a record but the fault hold flag. -/
theorem clearHolds_plan (chans : Four Channel) (o : OutputStage) (n : Num4) :
    ((o.clearHolds chans).chan.get n).plan = (o.chan.get n).plan ∧
      ((o.clearHolds chans).chan.get n).lowCount = (o.chan.get n).lowCount := by
  rw [clearHolds_get]
  split <;> exact ⟨rfl, rfl⟩

/-- Settles O10: the output stage of a member takes its due changes; that of any other station only clears fault hold flags. -/
theorem outputAtPeriodStart : Obligations.OutputAtPeriodStart := by
  refine ⟨fun c s starts run => ?_, fun c s starts outside => ?_⟩
  · intro p late
    have out := periodStart_out_eq s (decide (c = .periodEndOfCount))
    rw [if_pos run] at out
    have judged : lateAt p s.line.inbound = true ↔ late := lateAt_iff p s.line.inbound
    have due : ∀ {x}, x ∈ s.out.pending.filter (fun x => x.e == p) ↔ x ∈ s.out.pending ∧ x.e = p := by simp
    refine ⟨_, exec_periodStart starts, fun isLate => ?_, fun notLate => ?_, ?_, ?_, fun n none => ?_,
      fun x queued now single => ?_, fun n => ?_⟩
    · rw [out, show lateAt (s.timer.period + 1) s.line.inbound = true from judged.mpr isLate]
      exact ⟨rfl, rfl⟩
    · rw [out, show lateAt (s.timer.period + 1) s.line.inbound = false from Bool.eq_false_iff.mpr (mt judged.mp notLate)]
      exact ⟨rfl, rfl⟩
    · rw [out]
      rfl
    · rw [out]
      rfl
    · have same := applyPendings_other (xs := s.out.pending.filter fun x => x.e == p) (n := n)
        (fun x hx => none x (due.mp hx).1 (due.mp hx).2) s.out.chan
      rw [out, (clearHolds_plan _ _ n).1, (clearHolds_plan _ _ n).2]
      exact ⟨congrArg OutChannel.plan same, congrArg OutChannel.lowCount same⟩
    · have own := applyPendings_own (due.mpr ⟨queued, now⟩) (fun y hy => single y (due.mp hy).1 (due.mp hy).2) s.out.chan
      rw [out, (clearHolds_plan _ _ _).1, (clearHolds_plan _ _ _).2]
      exact ⟨congrArg OutChannel.plan own, congrArg OutChannel.lowCount own⟩
    · obtain ⟨config, hold⟩ := periodStart_outs s (decide (c = .periodEndOfCount)) n
      exact ⟨hold, config⟩
  · have out := periodStart_out_eq s (decide (c = .periodEndOfCount))
    rw [if_neg outside] at out
    refine ⟨_, exec_periodStart starts, by rw [out]; rfl, fun n => ?_⟩
    rw [out, clearHolds_get]

/-! ## O8: everything else -/

/-- R161, R168: the touch key unit after a period start. -/
theorem periodStart_touch_eq (s : State) (pull : Bool) :
    (s.periodStart pull).touch =
      { s.touch with
        key := s.touch.key.map fun k => (k.atPeriodStart s.touch.holdTime).1
        scan := match s.touch.scan with
          | some k => some k
          | none =>
            ({ s.touch with key := s.touch.key.map fun k => (k.atPeriodStart s.touch.holdTime).1 } : TouchUnit).nextKey
              allFour } := by
  rw [periodStart_touch, State.touchPeriodStart, beginRound_touch, keySteps_touch]
  rfl

/-- R25: the station controller after a period start in RUN. -/
theorem periodStart_ctl_run {s : State} (run : s.ctl.station = .run) (pull : Bool) :
    (s.periodStart pull).ctl =
      { s.ctl with
        presence := s.ctl.presence - 1
        silence := s.ctl.silence.map fun x => { x with count := min (x.count + 1) 1020 } } := by
  have ctl : ((s.timerStarted pull).outputPeriodStart.touchPeriodStart).ctl = s.ctl := by simp [State.timerStarted]
  rw [periodStart_ctl, (controllerPeriodStart_run (by rw [ctl]; exact run)).1, ctl]
  rfl

/-- R168: the steps that the keys of own channels give at a period start, in key order. -/
theorem periodStart_chans_eq (s : State) (pull : Bool) :
    (s.periodStart pull).chans =
      ([0, 1, 2, 3] : List Num4).foldl
        (fun cs k =>
          match ((s.touch.key.get k).atPeriodStart s.touch.holdTime).2 with
          | some op =>
            if (s.touch.key.get k).bound = s.own then
              operateMask s.cfg.placeable op s.touch.stepSize (s.touch.key.get k).mask cs
            else cs
          | none => cs)
        s.chans := by
  rw [periodStart_chans, keySteps_chans]
  rfl

/-- R103, R168: a LEVEL slot after a period start. -/
theorem periodStart_level (s : State) (pull : Bool) (k : Num4) :
    (s.periodStart pull).line.slots.level.get k =
      let given :=
        match ((s.touch.key.get k).atPeriodStart s.touch.holdTime).2 with
        | some op =>
          if (s.touch.key.get k).bound = s.own then s.line.slots.level.get k
          else
            (s.line.slots.level.get k).give (s.line.busy (.level k))
              { op := op, value := s.touch.stepSize, dest := (s.touch.key.get k).bound
                mask := (s.touch.key.get k).mask }
        | none => s.line.slots.level.get k
      { given with ctl := { given.ctl with held := false } } := by
  rw [periodStart_slots]
  simp only [Four.get_map, keySteps_level]
  rfl

/-- Settles O8: the shares of the blocks, each as its own lemma says. -/
theorem periodStartTaken : Obligations.PeriodStartTaken := by
  intro c s starts H pressed measured gives step ends unheld
  have stepped : ∀ x : Key, (x.atPeriodStart s.touch.holdTime).2 = if gives x then some (step x) else none := by
    intro x
    rw [atPeriodStart_step, rampStep_eq]
  have touch := periodStart_touch_eq s (decide (c = .periodEndOfCount))
  have scan := nextKey_allFour { s.touch with key := s.touch.key.map fun k => (k.atPeriodStart s.touch.holdTime).1 }
  refine ⟨_, exec_periodStart starts, by rw [periodStart_timer]; rfl, ⟨by rw [touch], fun k => ?_, fun k under => ?_,
    fun none => ⟨fun k first => ?_, fun nobody k => ?_⟩⟩, ?_, ?_, fun k => ?_, fun run => periodStart_ctl_run run _,
    fun joining => ?_, fun outside notJoining => ?_, by simp, by simp, by simp, by simp, by simp⟩
  · rw [touch, Four.get_map]
    obtain ⟨idle, forced, held⟩ := atPeriodStart_spec H (s.touch.key.get k)
    exact ⟨fun idles => congrArg Prod.fst (idle idles), fun presses limit => congrArg Prod.fst (forced presses limit),
      fun presses below => congrArg Prod.fst (held presses below)⟩
  · rw [touch]
    simp only [under]
  · rw [touch] at first ⊢
    simp only [none] at first
    obtain ⟨here, before⟩ := scan.1 k first
    exact ⟨(measured_iff _).mp here, fun j earlier was => by
      have := before j earlier
      rw [(measured_iff _).mpr was] at this
      cases this⟩
  · rw [touch] at nobody ⊢
    simp only [none] at nobody
    intro was
    have := scan.2 nobody k
    rw [(measured_iff _).mpr was] at this
    cases this
  · rw [periodStart_chans_eq]
    refine congrArg (fun f => ([0, 1, 2, 3] : List Num4).foldl f s.chans) (funext fun cs => funext fun k => ?_)
    rw [stepped]
    by_cases given : gives (s.touch.key.get k)
    · simp [given]
    · simp [given]
  · rw [periodStart_line, periodStart_slots]
    rfl
  · rw [periodStart_level, stepped]
    by_cases given : gives (s.touch.key.get k) <;> by_cases own : (s.touch.key.get k).bound = s.own <;>
      simp [given, own, unheld]
  · rw [periodStart_ctl_outside (by rw [joining]; simp), if_pos joining]
  · rw [periodStart_ctl_outside outside, if_neg notJoining]

end Sys2Proof.Machine

/-! The events that happen at a period start: the ends of counts (R28, R105, R111, R120, R122) and those of a key's hold (R168,
R170). -/

namespace Sys2Proof.Machine

/-! ## O11: the ends of counts -/

/-- R58, R121: a count in a list of counters whose counts alone have been changed. -/
theorem silenceOf_map {ss : List Silence} {st : Nat} (f : Nat → Nat) (h : ∃ x ∈ ss, x.station = st) :
    silenceOf (ss.map fun x => { x with count := f x.count }) st = f (silenceOf ss st) := by
  induction ss with
  | nil =>
    obtain ⟨x, hx, -⟩ := h
    cases hx
  | cons y ys ih =>
    by_cases first : y.station = st
    · simp [silenceOf, first]
    · obtain ⟨x, hx, station⟩ := h
      have later : x ∈ ys := by
        rcases List.mem_cons.mp hx with rfl | later
        · exact absurd station first
        · exact later
      have tail := ih ⟨x, later, station⟩
      simp only [silenceOf, List.map_cons, List.find?_cons, beq_eq_false_iff_ne.mpr first] at tail ⊢
      exact tail

/-- The counter that `silenceOf` reads. -/
theorem silenceOf_mem {ss : List Silence} {st : Nat} (h : ∃ x ∈ ss, x.station = st) :
    ∃ x ∈ ss, x.station = st ∧ x.count = silenceOf ss st := by
  obtain ⟨x, hx, station⟩ := h
  have found : (ss.find? fun x => x.station == st).isSome = true :=
    List.find?_isSome.mpr ⟨x, hx, beq_iff_eq.mpr station⟩
  obtain ⟨y, first⟩ := Option.isSome_iff_exists.mp found
  have match_y : (y.station == st) = true := List.find?_some (p := fun x : Silence => x.station == st) first
  exact ⟨y, List.mem_of_find?_eq_some first, beq_iff_eq.mp match_y, by rw [silenceOf, first]⟩

/-- A command of an event at a period start is that period start, when what makes the event holds. -/
theorem exec_event {c : Instr} {s : State} {src : StartSource} {here : Bool} (meaning : exec c s = .next (s.periodStartIf src here))
    (arises : s.startArises src = true) (h : here = true) :
    exec c s = .next (s.periodStart (src == .endOfCount)) ∧
      exec src.command s = .next (s.periodStart (src == .endOfCount)) :=
  ⟨by rw [meaning, periodStartIf_of arises h], exec_command arises⟩

/-- Settles O11: each count's event is the period start, whose lemmas say what the count's end brings. -/
theorem expiriesAtPeriodStart : Obligations.ExpiriesAtPeriodStart := by
  intro s src arises
  refine ⟨fun last => ?_, fun joining last => ?_, fun run last => ?_, fun st run limit member other count exists_counter => ?_,
    fun last => ?_⟩
  · obtain ⟨event, command⟩ := exec_event (c := .adoptionWaitExpiry src) rfl arises (by simp [last])
    refine ⟨_, event, command, ?_⟩
    rw [periodStart_timer]
    simp [State.timerStarted, last]
  · obtain ⟨event, command⟩ := exec_event (c := .joinWaitExpiry src) rfl arises (by simp [joining, last])
    have ends : s.ctl.station = .joinWait ∧ s.ctl.joinWait = 1 := ⟨joining, last⟩
    refine ⟨_, event, command, ?_, ?_, ?_, ?_⟩
    · rw [periodStart_ctl_outside (by rw [joining]; simp), if_pos joining, if_pos last, last]
    · rw [periodStart_slots]
      simp only [if_pos ends]
    · rw [periodStart_slots]
      simp only [TxSlots.ctl, if_pos ends]
    · rw [State.quarterGate, periodStart_timer]
      rfl
  · obtain ⟨event, command⟩ := exec_event (c := .presenceCountdownExpiry src) rfl arises (by simp [run, last])
    have ctl := periodStart_ctl_run run (src == .endOfCount)
    have slots := periodStart_slots s (src == .endOfCount)
    refine ⟨_, event, command, by rw [ctl, last], ?_⟩
    simp only [State.hasWork, ctl, slots, run, last]
    simp
  · have listed := silenceOf_mem exists_counter
    obtain ⟨x, hx, station, value⟩ := listed
    have here : (s.ctl.station == .run &&
        s.ctl.silence.any fun x => x.station == st && x.count + 1 == s.evictAt) = true := by
      rw [Bool.and_eq_true, beq_iff_eq, List.any_eq_true]
      exact ⟨run, x, hx, by simp [station, value, count]⟩
    obtain ⟨event, command⟩ := exec_event (c := .silenceLimit st src) rfl arises here
    have ctl := periodStart_ctl_run run (src == .endOfCount)
    have evictAt : (s.periodStart (src == .endOfCount)).evictAt = s.evictAt := by simp [State.evictAt]
    have reached : silenceOf (s.periodStart (src == .endOfCount)).ctl.silence st = s.evictAt := by
      rw [ctl]
      dsimp only
      rw [silenceOf_map (fun n => min (n + 1) 1020) exists_counter, count]
      exact min_eq_left limit
    refine ⟨_, event, command, by rw [reached, evictAt], (hasWork_evict _).mpr ⟨by rw [ctl]; exact run, ?_⟩⟩
    obtain ⟨m, mem, rfl⟩ := (isMember_iff _ _).mp member
    refine List.ne_nil_of_mem (a := m) (List.mem_filter.mpr ⟨by rw [State.periodStart_engine]; exact mem, ?_⟩)
    rw [Bool.and_eq_true, bne_iff_ne, decide_eq_true_eq, reached, evictAt]
    exact ⟨by rw [State.own, State.periodStart_loader]; exact other, le_rfl⟩
  · obtain ⟨event, command⟩ := exec_event (c := .placeCooldownExpiry src) rfl arises (by simp [last])
    refine ⟨_, event, command, ?_⟩
    rw [periodStart_slots]
    simp [last]

/-! ## O12: the events of a key's hold -/

/-- One of the four numbers alone has a share in a fold over them. -/
theorem foldl_alone {β : Type} {f : β → Num4 → β} (k : Num4) (others : ∀ j, j ≠ k → ∀ b, f b j = b) (b : β) :
    ([0, 1, 2, 3] : List Num4).foldl f b = f b k := by
  match k with
  | 0 => simp only [List.foldl, others 1 (by decide), others 2 (by decide), others 3 (by decide)]
  | 1 => simp only [List.foldl, others 0 (by decide), others 2 (by decide), others 3 (by decide)]
  | 2 => simp only [List.foldl, others 0 (by decide), others 1 (by decide), others 3 (by decide)]
  | 3 => simp only [List.foldl, others 0 (by decide), others 1 (by decide), others 2 (by decide)]

/-- R103: a LEVEL slot with its held mark clear. -/
def LevelSlot.unheld (l : LevelSlot) : LevelSlot := { l with ctl := { l.ctl with held := false } }

/-- R168: the LEVEL slot of key `k` after the step `op`, if there is one. -/
def State.levelGiven (s : State) (k : Num4) : Option LevelOp → LevelSlot
  | some op =>
    if (s.touch.key.get k).bound = s.own then s.line.slots.level.get k
    else
      (s.line.slots.level.get k).give (s.line.busy (.level k))
        { op := op, value := s.touch.stepSize, dest := (s.touch.key.get k).bound, mask := (s.touch.key.get k).mask }
  | none => s.line.slots.level.get k

/-- R168: the channels after the step `op` of key `k`, if there is one. -/
def State.chansGiven (s : State) (k : Num4) : Option LevelOp → Four Channel
  | some op =>
    if (s.touch.key.get k).bound = s.own then
      operateMask s.cfg.placeable op s.touch.stepSize (s.touch.key.get k).mask s.chans
    else s.chans
  | none => s.chans

/-- R168: what a period start makes of key `k`, and, where no other key is held, of the others, the channels and the LEVEL slots. -/
theorem periodStart_key {s : State} {k : Num4} {x : Key} {op : Option LevelOp}
    (h : (s.touch.key.get k).atPeriodStart s.touch.holdTime = (x, op)) (pull : Bool) :
    ((s.periodStart pull).touch.key.get k = x ∧
      (s.periodStart pull).line.slots.level.get k = (s.levelGiven k op).unheld) ∧
    ((∀ j, j ≠ k → (s.touch.key.get j).state ≠ .pressed ∧ (s.touch.key.get j).state ≠ .holding) →
      (s.periodStart pull).touch.key = s.touch.key.set k x ∧
      (s.periodStart pull).chans = s.chansGiven k op ∧
      (s.periodStart pull).line.slots.level =
        (s.line.slots.level.map LevelSlot.unheld).set k (s.levelGiven k op).unheld) := by
  have key : ∀ j, (s.periodStart pull).touch.key.get j = ((s.touch.key.get j).atPeriodStart s.touch.holdTime).1 := by
    intro j
    rw [periodStart_touch_eq, Four.get_map]
  have level : ∀ j, (s.periodStart pull).line.slots.level.get j =
      (s.levelGiven j ((s.touch.key.get j).atPeriodStart s.touch.holdTime).2).unheld := by
    intro j
    rw [periodStart_level]
    cases ((s.touch.key.get j).atPeriodStart s.touch.holdTime).2 <;> rfl
  refine ⟨⟨by rw [key, h], by rw [level, h]⟩, fun alone => ?_⟩
  have idle : ∀ j, j ≠ k → (s.touch.key.get j).atPeriodStart s.touch.holdTime = (s.touch.key.get j, none) := by
    intro j other
    exact (atPeriodStart_spec _ _).1 (not_or.mpr (alone j other))
  refine ⟨Four.ext_get fun j => ?_, ?_, Four.ext_get fun j => ?_⟩
  · rw [key, Four.get_set]
    split
    next same => rw [same, h]
    next other => rw [idle j other]
  · rw [periodStart_chans_eq, foldl_alone k (fun j other cs => by rw [idle j other]), h]
    cases op <;> rfl
  · rw [level, Four.get_set, Four.get_map]
    split
    next same => rw [same, h]
    next other =>
      rw [idle j other]
      rfl

/-- Settles O12: each event is the period start at which the key's record says so. -/
theorem holdEventsAtPeriodStart : Obligations.HoldEventsAtPeriodStart := by
  intro s src k arises key step alone unheld level becomes given
  have spec := atPeriodStart_spec s.touch.holdTime key
  have put_back : (s.line.slots.level.map LevelSlot.unheld).set k (s.line.slots.level.get k).unheld =
      s.line.slots.level.map LevelSlot.unheld := by
    rw [← Four.get_map LevelSlot.unheld, Four.set_get_self]
  have gives : ∀ {x : Key}, key.atPeriodStart s.touch.holdTime = (x, some key.ramp.step) →
      becomes (s.periodStart (src == .endOfCount)) x ∧ given (s.periodStart (src == .endOfCount)) := by
    intro x h
    obtain ⟨⟨record, slot⟩, others⟩ := periodStart_key h (src == .endOfCount)
    rw [rampStep_eq] at slot others
    refine ⟨⟨record, fun one => (others one).1⟩, fun own => ?_, fun far => ?_⟩
    · have level_own : s.levelGiven k (some step) = s.line.slots.level.get k := if_pos own
      have chans_own : s.chansGiven k (some step) =
          operateMask s.cfg.placeable step s.touch.stepSize key.mask s.chans := if_pos own
      rw [level_own] at slot others
      refine ⟨slot.trans (Four.get_map _ _ _).symm, fun one => ?_⟩
      obtain ⟨-, chans, levels⟩ := others one
      exact ⟨chans.trans chans_own, levels.trans put_back⟩
    · have level_far : s.levelGiven k (some step) =
          (s.line.slots.level.get k).give (s.line.busy (.level k))
            { op := step, value := s.touch.stepSize, dest := key.bound, mask := key.mask } := if_neg far
      have chans_far : s.chansGiven k (some step) = s.chans := if_neg far
      rw [level_far] at slot others
      refine ⟨slot, fun one => ?_⟩
      obtain ⟨-, chans, levels⟩ := others one
      exact ⟨chans.trans chans_far, levels⟩
  refine ⟨fun pressed reached below => ?_, fun j holding later reached below => ?_, fun held limit => ?_⟩
  · have record := spec.2.2 (.inl pressed) below
    rw [if_pos ⟨pressed, reached⟩, if_pos (.inl ⟨pressed, reached⟩)] at record
    obtain ⟨event, command⟩ := exec_event (c := .holdTimeReached k src) rfl arises
      (by simp [Key.reachesHold, show (s.touch.key.get k).state = .pressed from pressed,
        show (s.touch.key.get k).hold + 1 = s.touch.holdTime from reached])
    obtain ⟨becomes_x, given_t⟩ := gives record
    exact ⟨_, event, command, becomes_x, given_t⟩
  · have step_now : key.state = .holding ∧ s.touch.holdTime < key.hold + 1 ∧ (key.hold + 1 - s.touch.holdTime) % 4 = 0 :=
      ⟨holding, by omega, by omega⟩
    have record := spec.2.2 (.inr holding) below
    rw [if_neg (by rw [holding]; simp), if_pos (.inr step_now)] at record
    obtain ⟨event, command⟩ := exec_event (c := .holdStep k src) (here := key.reachesStep s.touch.holdTime) rfl arises
      (by simp [Key.reachesStep, step_now, Config.holdTimerLimit, below])
    obtain ⟨becomes_x, given_t⟩ := gives record
    exact ⟨_, event, command, becomes_x, given_t⟩
  · have record := spec.2.1 held (by omega)
    obtain ⟨event, command⟩ := exec_event (c := .forcedRelease k src) (here := key.reachesLimit) rfl arises
      (by simp [Key.reachesLimit, Key.held, held, Config.holdTimerLimit, limit])
    obtain ⟨⟨forced, slot⟩, others⟩ := periodStart_key record (src == .endOfCount)
    refine ⟨_, event, command, ⟨forced, fun one => (others one).1⟩, slot.trans (Four.get_map _ _ _).symm, fun one => ?_⟩
    obtain ⟨-, chans, levels⟩ := others one
    exact ⟨chans, levels.trans put_back⟩

end Sys2Proof.Machine

/-! The channels, the outputs' sense monitors and the touch keys, one record or one sample at a time. -/

namespace Sys2Proof.Machine

/-! ## O40, O41: LEVEL -/

/-- R61, R135: the LEVEL at the head of the queue of a listening station. -/
theorem exec_applyLevel {s : State} {r : Record} {rest : List Record} {op : LevelOp} {mask : BitVec 4} {v : Byte}
    (head : AtHead s r rest) (listening : s.ctl.station.listening = true) (level : r.payload = .level op mask v) :
    exec .applyLevel s = .next (s.applyLevelRecord op mask v).dropHead := by
  have taken : s.useHead = some r := useHead_of_atHead head listening (by rw [level]; exact listening)
  obtain ⟨source, lock, stamp, boundary, payload⟩ := r
  subst level
  change execApplyLevel s = _
  simp only [execApplyLevel, taken]

/-- Settles O40: the operation channel by channel. -/
theorem levelRecordApplied : Obligations.LevelRecordApplied := by
  intro s r rest op mask v head listening level a
  have popped : (s.applyLevelRecord op mask v).dropHead =
      { s.applyLevelRecord op mask v with line := s.line.popped rest } :=
    dropHead_popped (s := s.applyLevelRecord op mask v) head.1
  refine ⟨_, exec_applyLevel head listening level, fun n => ?_, ?_, ?_⟩
  · rw [State.dropHead_chans, State.applyLevelRecord, operateMask_get]
    by_cases named : mask.getLsbD n.val = true
    · by_cases unused : (s.chans.get n).state = .unused
      · simp [named, unused, Channel.operate]
      · simp [named, unused, Channel.operate]
        exact ⟨rfl, rfl⟩
    · rw [if_neg named, if_neg (fun both => named both.1)]
  · rw [popped]
  · rw [popped]
    rfl

/-- Settles O41: each operation, each merge, by its cases. -/
theorem levelOperations : Obligations.LevelOperations := by
  refine ⟨fun a v t lit lit_pos => ⟨⟨rfl, rfl⟩, ⟨rfl, rfl⟩, ⟨rfl, rfl⟩, ⟨(Nat.zero_max _).symm, ?_⟩, fun op =>
    newLastLit_pos op lit_pos⟩, fun held new => ⟨rfl, ?_, ?_, ?_⟩, fun l new => ⟨LevelSlot.give_busy l new, ?_, ?_⟩,
    fun l id => l.busy_iff id⟩
  · simp only [newLastLit, newTarget, Nat.sub_eq_zero_iff_le]
  · intro toggle toggle'
    simp [mergeLevel, toggle, toggle']
  · rintro same (up | down)
    · simp [mergeLevel, up, ← same]
    · simp [mergeLevel, down, ← same]
  · intro differ
    unfold mergeLevel
    dsimp only
    split
    next up up' => exact absurd (up.trans up'.symm) differ
    next down down' => exact absurd (down.trans down'.symm) differ
    next toggle toggle' => exact absurd (toggle.trans toggle'.symm) differ
    next => rfl
  · intro same
    rw [LevelSlot.give_idle, same]
    simp
  · intro changes
    rw [LevelSlot.give_idle]
    simp [changes]

/-! ## O43: SCENE -/

theorem exec_applyScene {s : State} {r : Record} {rest : List Record} {f l : Byte} {ls : List Byte}
    (head : AtHead s r rest) (run : s.ctl.station = .run) (scene : r.payload = .scene f l ls) :
    exec .applyScene s = .next (s.setScene (sceneStart s.own s.cfg.placeable r.source f l ls s.chans)).dropHead := by
  have taken : s.useHead = some r := useHead_of_atHead head (by rw [run]; rfl) (by rw [scene, run]; rfl)
  obtain ⟨source, lock, stamp, boundary, payload⟩ := r
  subst scene
  change execApplyScene s = _
  simp only [execApplyScene, taken]

/-- R138: one level assigned. -/
theorem assignLevel_eq {own : Nat} (member : 1 ≤ own) (a idx level : Nat) (cs : Four Channel) :
    assignLevel own a idx level cs =
      .tabulate fun n =>
        if (own - 1) * 4 + n.val = idx ∧ level ≤ 128 ∧ (cs.get n).state ≠ .unused then
          { cs.get n with
            target := min level a
            lastLit := if level = 0 ∧ 0 < (cs.get n).target then (cs.get n).target else (cs.get n).lastLit
            state := .seeking, owed := true, revised := true }
        else cs.get n := by
  refine Four.ext_get fun n => ?_
  rw [assignLevel, Four.get_tabulate, Four.get_tabulate]
  by_cases unused : (cs.get n).state = .unused
  · simp [Channel.operate, unused]
  · simp only [sceneIndex, member, true_and, unused, Channel.operate, if_false, ne_eq, not_false_eq_true, and_true]
    rfl

/-- Settles O43: the first levels as the record gives them, then one level at a time. -/
theorem sceneApplied : Obligations.SceneApplied := by
  refine ⟨fun s r rest f l ls head run scene => ?_, fun own a l ls cur cs member within limit => ⟨rfl, ?_⟩⟩
  · rw [exec_applyScene head run scene, dropHead_setScene head.1]
    rfl
  · have last : (cur.last.toNat < cur.next.toNat + 1) ↔ cur.next = cur.last := by
      constructor
      · intro past
        exact BitVec.eq_of_toNat_eq (by omega)
      · rintro eq
        rw [eq]
        omega
    rw [assignLevels, assignLevel_eq member]
    dsimp only
    simp only [last, decide_eq_true_eq]

/-! ## O45: the events of a channel record -/

/-- Settles O45, state by state. -/
theorem channelEvents : Obligations.ChannelEvents := by
  refine ⟨fun c holds unused => ?_, fun c holds used => ?_⟩
  · simp [Channel.outcome, Channel.relief, Channel.shed, Channel.opened, Channel.resolve, Channel.restart, unused]
  · refine ⟨fun o faulted => ?_, fun p sound => ?_, fun o which sound => ?_, fun why sound => ?_, ?_, ?_, ?_, ?_, ?_⟩
    · simp [Channel.outcome, faulted]
    · cases state : c.state <;> simp_all [Channel.outcome]
    · rcases which with rfl | rfl <;> cases state : c.state <;> simp_all [Channel.outcome]
    · cases state : c.state <;> simp_all [Channel.outcome]
    · cases state : c.state <;> simp_all [Channel.relief]
    · cases state : c.state <;> simp_all [Channel.shed]
    · simp [Channel.opened, used]
    · cases state : c.state <;> simp_all [Channel.resolve]
    · cases state : c.state <;> simp_all [Channel.restart]

/-! ## O48: the sense monitor -/

theorem samples_iff (s : State) (n : Num4) :
    s.samples n = true ↔
      (s.out.chan.get n).senseEnable = true ∧ s.outActive n = true ∧
        ∃ p, (s.out.chan.get n).plan = some p ∧ 4 ≤ p.len ∧ s.timer.slot = p.start + p.len / 2 := by
  simp only [State.samples, Bool.and_eq_true, beq_iff_eq, and_assoc]
  refine and_congr_right fun _ => ?_
  rw [and_comm]
  refine and_congr_right fun _ => ?_
  cases (s.out.chan.get n).plan with
  | none => simp
  | some p => simp [Placement.sampleSlot, eq_comm]

/-- Settles O48: a sample is taken, or not; a low one counts, or reports OPEN. -/
theorem senseSampleTaken : Obligations.SenseSampleTaken := by
  intro s n x driven withChan
  have taken : ∀ high, driven → exec (.senseSample n high) s = .next (s.sample n high) := by
    intro high isDriven
    show execSenseSample n high s = _
    rw [execSenseSample, if_pos ((samples_iff s n).mpr isDriven)]
  refine ⟨fun isDriven => taken true isDriven, fun isDriven below => ?_, fun isDriven limit used => ?_,
    fun notDriven high => ?_⟩
  · rw [taken false isDriven, State.sample]
    rw [if_neg (by simp), if_pos below]
    rfl
  · have report : s.sample n false = (s.reportOpen n).settleSlots := by
      rw [State.sample, if_neg (by simp), if_neg (Nat.not_lt.mpr limit)]
    have out : (s.reportOpen n).settleSlots.out =
        { s.out with chan := s.out.chan.set n { x with lowCount := 0, faultHold := true } } := by
      simp only [State.settleSlots_out, State.reportOpen, used, ne_eq, not_false_eq_true, decide_true, Bool.or_true]
      rfl
    have chans : (s.reportOpen n).settleSlots.chans =
        s.chans.set n
          { s.chans.get n with
            state := .faulted, owed := (claimOf s.engine.replica.claims s.own n).isSome, revised := false } := by
      simp only [State.settleSlots_chans, reportOpen_chans, Channel.opened, used, if_false]
      rfl
    refine ⟨_, (taken false isDriven).trans (congrArg _ report), out, chans, ?_, ?_, rfl, rfl, rfl⟩
    · have faulted := (any_faulted_iff (s.reportOpen n).settleSlots.chans).mpr
        ⟨n, by rw [chans, Four.get_set, if_pos rfl]⟩
      rw [State.faultN, faulted, Bool.or_true, Bool.true_or]
    · exact outActive_faultHold (by rw [out]; simp)
  · show execSenseSample n high s = _
    rw [execSenseSample, if_neg (mt (samples_iff s n).mp notDriven)]

/-! ## O36: DUMP-OPEN, QUERY, and records without a use -/

theorem exec_applyDumpOpen {s : State} {r : Record} {rest : List Record} {f : DumpOpen} (head : AtHead s r rest)
    (run : s.ctl.station = .run) (opens : r.payload = .dumpOpen f) :
    exec .applyDumpOpen s = .next (s.applyDumpOpenRecord r.source).dropHead := by
  have taken : s.useHead = some r := useHead_of_atHead head (by rw [run]; rfl) (by rw [opens, run]; rfl)
  obtain ⟨source, lock, stamp, boundary, payload⟩ := r
  subst opens
  change execApplyDumpOpen s = _
  simp only [execApplyDumpOpen, taken]

theorem exec_applyQuery {s : State} {r : Record} {rest : List Record} {w : What} (head : AtHead s r rest)
    (listening : s.ctl.station.listening = true) (query : r.payload = .query w) :
    exec .applyQuery s = .next (s.applyQueryRecord r.source w).dropHead := by
  have taken : s.useHead = some r := useHead_of_atHead head listening (by rw [query]; exact listening)
  obtain ⟨source, lock, stamp, boundary, payload⟩ := r
  subst query
  change execApplyQuery s = _
  simp only [execApplyQuery, taken]

/-- R62: the head record has no use in the station state in force. -/
theorem exec_discardRecord {s : State} {r : Record} {rest : List Record} (head : AtHead s r rest)
    (listening : s.ctl.station.listening = true) (unused : r.payload.usedIn s.ctl.station = false) :
    exec .discardRecord s = .next { s with line := s.line.popped rest } := by
  have engineHead : s.engineHead = some r := by
    rw [State.engineHead, if_pos (by simp [listening, head.2]), head.1]
    rfl
  show execDiscardRecord s = _
  simp only [execDiscardRecord, engineHead, unused, Bool.false_eq_true, if_false]
  rw [dropHead_popped head.1]

/-- Settles O36. -/
theorem otherRecordsApplied : Obligations.OtherRecordsApplied := by
  intro s r rest head
  refine ⟨fun f run opens => ?_, fun w listening query => ?_, fun useless => ?_⟩
  · rw [exec_applyDumpOpen head run opens, dropHead_popped (s := s.applyDumpOpenRecord r.source) head.1]
    by_cases cancels : s.line.slots.dumpRun = none ∧ r.source ≠ s.own
    · rw [if_pos cancels]
      obtain ⟨noRun, foreign⟩ := cancels
      simp [State.applyDumpOpenRecord, TxSlots.cancelDump, noRun, foreign, LineInterface.popped, SlotCtl.clear]
    · rw [if_neg cancels]
      have stands : s.line.slots.cancelDump (r.source != s.own) = s.line.slots :=
        cancelDump_of (by by_cases own : r.source = s.own <;> simp_all)
      simp [State.applyDumpOpenRecord, stands, LineInterface.popped]
  · rw [exec_applyQuery head listening query, dropHead_popped (s := s.applyQueryRecord r.source w) head.1]
    cases busy : s.line.busy .report <;>
      simp [State.applyQueryRecord, TxSlots.giveReport, busy, LineInterface.popped, SlotCtl.clear]
  · have listening : s.ctl.station.listening = true := by
      rcases useless with ⟨eq, -⟩ | ⟨eq, -⟩ | ⟨eq | eq | eq, -⟩ <;> rw [eq] <;> rfl
    refine exec_discardRecord head listening ?_
    rcases useless with ⟨run, kind⟩ | ⟨receiving, kind⟩ | ⟨joining, kind⟩
    · cases payload : r.payload <;> simp_all [Payload.kind, Payload.usedIn]
    · cases payload : r.payload <;> simp_all [Payload.kind, Payload.usedIn]
    · have outside : s.ctl.station ≠ .run ∧ s.ctl.station ≠ .dumpReceive := by
        rcases joining with eq | eq | eq <;> simp [eq]
      cases payload : r.payload <;> simp_all [Payload.kind, Payload.usedIn]

end Sys2Proof.Machine

/-! The touch keys and the pins. -/

namespace Sys2Proof.Machine

/-! ## A measurement at its key -/

/-- R162, R163: the key with the value taken, its fault runs judged and neither at its fourth. -/
def Key.taken (k : Key) (v : Nat) : Key :=
  { k with
    last := v
    overflowRun := if v = 4095 then k.overflowRun + 1 else 0
    shortRun := if v < 16 then k.shortRun + 1 else 0 }

theorem measure_overflow {k : Key} {v : Nat} (limit : v = 4095) (run : 3 ≤ k.overflowRun) :
    k.measure v = (Key.fault { k with last := v } .faultOverflow, false) := by
  have fourth : 4 ≤ k.overflowRun + 1 := by omega
  simp [Key.measure, Key.judgeFault, Config.countLimit, limit, fourth]

theorem measure_low {k : Key} {v : Nat} (low : v < 16) (run : 3 ≤ k.shortRun) :
    k.measure v = (Key.fault { k with last := v } .faultLow, false) := by
  have fourth : 4 ≤ k.shortRun + 1 := by omega
  have notLimit : v ≠ 4095 := by omega
  simp [Key.measure, Key.judgeFault, Config.countLimit, Config.shortBelow, notLimit, low, fourth]

theorem judgeFault_sound {k : Key} {v : Nat}
    (sound : ¬ (v = 4095 ∧ 3 ≤ k.overflowRun) ∧ ¬ (v < 16 ∧ 3 ≤ k.shortRun)) :
    ({ k with last := v } : Key).judgeFault v =
      .none (if v = 4095 then k.overflowRun + 1 else 0) (if v < 16 then k.shortRun + 1 else 0) := by
  unfold Key.judgeFault
  by_cases limit : v = 4095
  · have below : ¬ 4 ≤ k.overflowRun + 1 := by omega
    simp [Config.countLimit, limit, below]
  · by_cases low : v < 16
    · have below : ¬ 4 ≤ k.shortRun + 1 := by omega
      simp [Config.countLimit, Config.shortBelow, limit, low, below]
    · simp [Config.countLimit, Config.shortBelow, limit, low]

/-- R162: what the judgement of a sound measurement leaves. -/
def Key.SameSample (k k' : Key) : Prop :=
  k'.last = k.last ∧ k'.overflowRun = k.overflowRun ∧ k'.shortRun = k.shortRun

theorem track_sameSample (r : Reading) (v : Nat) (k : Key) : k.SameSample (Key.track r v k) := by
  unfold Key.track
  split <;> exact ⟨rfl, rfl, rfl⟩

theorem calibrate_sameSample (k : Key) (v : Nat) : k.SameSample (k.calibrate v) := by
  unfold Key.calibrate
  dsimp only
  split <;> exact ⟨rfl, rfl, rfl⟩

theorem measureReleased_sameSample (k : Key) (v : Nat) : k.SameSample (k.measureReleased v) := by
  unfold Key.measureReleased
  split
  · split
    · exact ⟨rfl, rfl, rfl⟩
    · exact track_sameSample _ _ { k with touchRun := k.touchRun + 1, noTouchRun := 0 }
  · exact track_sameSample _ _ { k with touchRun := 0, noTouchRun := if 3 ≤ k.noTouchRun + 1 then 0 else k.noTouchRun + 1 }
  · exact track_sameSample _ _ k

theorem measureHeld_sameSample (k : Key) (v : Nat) : k.SameSample (k.measureHeld v).1 := by
  unfold Key.measureHeld
  split
  · exact ⟨rfl, rfl, rfl⟩
  · split <;> exact ⟨rfl, rfl, rfl⟩
  · exact ⟨rfl, rfl, rfl⟩

/-- R164 to R169: a sound measurement, by the key's state. -/
theorem measure_sound {k : Key} {v : Nat}
    (sound : ¬ (v = 4095 ∧ 3 ≤ k.overflowRun) ∧ ¬ (v < 16 ∧ 3 ≤ k.shortRun)) :
    k.measure v =
      match k.state with
      | .calibrating => ((k.taken v).calibrate v, false)
      | .released => ((k.taken v).measureReleased v, false)
      | .pressed => (k.taken v).measureHeld v
      | .holding =>
        (if ((k.taken v).measureHeld v).2 then
            { ((k.taken v).measureHeld v).1 with ramp := ((k.taken v).measureHeld v).1.ramp.turn }
          else ((k.taken v).measureHeld v).1, false)
      | _ => (k.taken v, false) := by
  have judged := judgeFault_sound sound
  unfold Key.measure
  dsimp only
  rw [judged]
  obtain ⟨enable, bound, mask, threshold, divider, state⟩ := k
  cases state <;> rfl

theorem measure_sameSample {k : Key} {v : Nat}
    (sound : ¬ (v = 4095 ∧ 3 ≤ k.overflowRun) ∧ ¬ (v < 16 ∧ 3 ≤ k.shortRun)) :
    (k.taken v).SameSample (k.measure v).1 := by
  rw [measure_sound sound]
  cases k.state with
  | calibrating => exact calibrate_sameSample _ _
  | released => exact measureReleased_sameSample _ _
  | pressed => exact measureHeld_sameSample _ _
  | holding =>
    dsimp only
    split
    · exact measureHeld_sameSample (k.taken v) v
    · exact measureHeld_sameSample (k.taken v) v
  | _ => exact ⟨rfl, rfl, rfl⟩

/-- R169: a key that is released is in RELEASED. -/
theorem measureHeld_released {k : Key} {v : Nat} (h : (k.measureHeld v).2 = true) :
    (k.measureHeld v).1.state = .released := by
  unfold Key.measureHeld at h ⊢
  cases reading : k.reading v with
  | touch => simp [reading] at h
  | neither => simp [reading] at h
  | noTouch =>
    by_cases third : 3 ≤ k.noTouchRun + 1
    · simp only [third, if_true]
      rfl
    · simp [reading, third] at h

/-- R162, R167: only a key in PRESSED gives a TOGGLE, and it is released. -/
theorem measure_toggle {k : Key} {v : Nat} (h : (k.measure v).2 = true) :
    k.state = .pressed ∧ (k.measure v).1.state = .released := by
  by_cases overflow : v = 4095 ∧ 3 ≤ k.overflowRun
  · rw [measure_overflow overflow.1 overflow.2] at h
    cases h
  by_cases low : v < 16 ∧ 3 ≤ k.shortRun
  · rw [measure_low low.1 low.2] at h
    cases h
  rw [measure_sound ⟨overflow, low⟩] at h ⊢
  cases state : k.state <;> simp only [state] at h ⊢
  case pressed => exact ⟨trivial, measureHeld_released h⟩
  all_goals cases h

/-! ## O49: MEASUREMENT_END -/

/-- The keys after one, in key order, and the first of them in a measured state (R161). -/
theorem nextKey_keysAfter (t : TouchUnit) (k : Num4) :
    (∀ j, t.nextKey (keysAfter k) = some j →
      k.val < j.val ∧ (t.key.get j).state.measured = true ∧
        ∀ i, k.val < i.val → i.val < j.val → (t.key.get i).state.measured = false) ∧
      (t.nextKey (keysAfter k) = none → ∀ j, k.val < j.val → (t.key.get j).state.measured = false) := by
  have mem : ∀ j, j ∈ keysAfter k ↔ k.val < j.val := by simp [keysAfter]
  have sorted : (keysAfter k).Pairwise fun a b => a.val < b.val := by
    refine List.Pairwise.filter _ ?_
    decide
  refine ⟨fun j first => ?_, fun nobody j after => ?_⟩
  · have measured := List.find?_some (p := fun k => (t.key.get k).state.measured) first
    obtain ⟨_, as, bs, parts, none⟩ := List.find?_eq_some_iff_append.mp first
    refine ⟨(mem j).mp (List.mem_of_find?_eq_some first), measured, fun i after before => ?_⟩
    have listed : i ∈ as ++ j :: bs := parts ▸ (mem i).mpr after
    rw [parts, List.pairwise_append] at sorted
    rcases List.mem_append.mp listed with early | late
    · simpa using none i early
    · rcases List.mem_cons.mp late with rfl | later
      · exact absurd before (Nat.lt_irrefl _)
      · exact absurd before (Nat.lt_asymm ((List.pairwise_cons.mp sorted.2.1).1 i later))
  · simpa using List.find?_eq_none.mp nobody j ((mem j).mpr after)

/-- R162: the end of a measurement, its TOGGLE handed on when the key gives one. -/
theorem exec_measurementEnd {s : State} {k : Num4} {v : BitVec 12} (runs : s.ctl.station.timerRuns = true)
    (under : s.touch.scan = some k) :
    exec (.measurementEnd k v) s =
      .next
        (if ((s.touch.key.get k).measure v.toNat).2 then (s.measured k v.toNat).keyOperation k .toggle 0
        else s.measured k v.toNat) := by
  show execMeasurementEnd k v s = _
  rw [execMeasurementEnd, if_pos ⟨under, runs⟩]
  rfl

/-- Settles O49. -/
theorem measurementTaken : Obligations.MeasurementTaken := by
  intro s k v runs under key x
  have bound : x.1.bound = key.bound := congrArg (fun c => c.2.1) (measure_config key v.toNat)
  have mask : x.1.mask = key.mask := congrArg (fun c => c.2.2.1) (measure_config key v.toNat)
  have record : (s.measured k v.toNat).touch.key.get k = x.1 := by simp [State.measured, x, key]
  have scan := nextKey_keysAfter { s.touch with key := s.touch.key.set k x.1 } k
  have own_eq : (s.measured k v.toNat).own = s.own := rfl
  cases gives : x.2 with
  | false =>
    refine ⟨s.measured k v.toNat, ?_, rfl, scan.1, scan.2, fun _ => ⟨rfl, rfl⟩, fun no => (by cases no), rfl, rfl, rfl, rfl,
      rfl, rfl, rfl⟩
    rw [exec_measurementEnd runs under]
    exact congrArg Host.Outcome.next (if_neg (by rw [show (Key.measure (s.touch.key.get k) v.toNat).2 = false from gives]; simp))
  | true =>
    have exec_eq : exec (.measurementEnd k v) s = .next ((s.measured k v.toNat).keyOperation k .toggle 0) := by
      rw [exec_measurementEnd runs under]
      exact congrArg Host.Outcome.next (if_pos gives)
    obtain ⟨pressed, released⟩ := measure_toggle gives
    by_cases own : key.bound = s.own
    · have eq := keyOperation_own (s := s.measured k v.toNat) (k := k) .toggle 0 (by rw [record, bound, own_eq]; exact own)
      rw [record, mask] at eq
      rw [eq] at exec_eq
      exact ⟨_, exec_eq, rfl, scan.1, scan.2, fun no => (by cases no),
        fun _ => ⟨pressed, released, fun _ => ⟨rfl, rfl⟩, fun far => absurd own far⟩, rfl, rfl, rfl, rfl, rfl, rfl, rfl⟩
    · have eq := keyOperation_far (s := s.measured k v.toNat) (k := k) .toggle 0 (by rw [record, bound, own_eq]; exact own)
      rw [record, mask, bound] at eq
      rw [eq] at exec_eq
      exact ⟨_, exec_eq, rfl, scan.1, scan.2, fun no => (by cases no),
        fun _ => ⟨pressed, released, fun near => absurd near own, fun _ => ⟨rfl, rfl⟩⟩, rfl, rfl, rfl, rfl, rfl, rfl, rfl⟩

/-! ## O50: a measurement, field by field -/

theorem reading_taken (k : Key) (v : Nat) :
    (k.taken v).reading v =
      if k.baseline + k.threshold ≤ v then .touch
      else if v ≤ k.baseline + k.threshold / 2 then .noTouch
      else .neither := rfl

/-- R166: the tracking step of a reading. -/
theorem track_eq (r : Reading) (v : Nat) (k : Key) :
    Key.track r v k =
      { k with
        tracking := if k.tracking < 15 then k.tracking + 1 else 0
        baseline :=
          if r = .touch ∨ k.tracking < 15 then k.baseline
          else if k.baseline < v then k.baseline + 1
          else if v < k.baseline then k.baseline - 1
          else k.baseline } := by
  unfold Key.track
  by_cases early : k.tracking < 15
  · rw [if_neg (by omega)]
    simp [early]
  · rw [if_pos (by omega)]
    simp [early]

/-- R165 to R167: a measurement in RELEASED. -/
theorem measureReleased_taken (k : Key) (v : Nat) (touches : k.touchRun ≤ 2) (misses : k.noTouchRun ≤ 2) :
    (k.taken v).measureReleased v =
      if k.baseline + k.threshold ≤ v then
        if k.touchRun = 2 then (k.taken v).press
        else Key.track .touch v { k.taken v with touchRun := k.touchRun + 1, noTouchRun := 0 }
      else if v ≤ k.baseline + k.threshold / 2 then
        Key.track .noTouch v
          { k.taken v with touchRun := 0, noTouchRun := if k.noTouchRun = 2 then 0 else k.noTouchRun + 1 }
      else Key.track .neither v (k.taken v) := by
  have third : ∀ {n : Nat}, n ≤ 2 → (3 ≤ n + 1 ↔ n = 2) := by omega
  unfold Key.measureReleased
  rw [reading_taken]
  by_cases touch : k.baseline + k.threshold ≤ v
  · simp only [if_pos touch]
    exact if_congr (third touches) rfl rfl
  · by_cases noTouch : v ≤ k.baseline + k.threshold / 2
    · simp only [if_neg touch, if_pos noTouch]
      exact congrArg (fun n => Key.track .noTouch v { k.taken v with touchRun := 0, noTouchRun := n })
        (if_congr (third misses) rfl rfl)
    · simp only [if_neg touch, if_neg noTouch]

/-- R165, R167, R169: a measurement in PRESSED or HOLDING. -/
theorem measureHeld_taken (k : Key) (v : Nat) (misses : k.noTouchRun ≤ 2) :
    (k.taken v).measureHeld v =
      if k.baseline + k.threshold ≤ v then ({ k.taken v with touchRun := 0, noTouchRun := 0 }, false)
      else if v ≤ k.baseline + k.threshold / 2 then
        if k.noTouchRun = 2 then ((k.taken v).release, true)
        else ({ k.taken v with touchRun := 0, noTouchRun := k.noTouchRun + 1 }, false)
      else (k.taken v, false) := by
  have third : 3 ≤ k.noTouchRun + 1 ↔ k.noTouchRun = 2 := by omega
  unfold Key.measureHeld
  rw [reading_taken]
  by_cases touch : k.baseline + k.threshold ≤ v
  · simp only [if_pos touch]
  · by_cases noTouch : v ≤ k.baseline + k.threshold / 2
    · simp only [if_neg touch, if_pos noTouch]
      exact if_congr third rfl rfl
    · simp only [if_neg touch, if_neg noTouch]

/-- R164: a measurement in CALIBRATING. -/
theorem calibrate_taken (k : Key) (v : Nat) :
    (k.taken v).calibrate v =
      if 7 ≤ k.calCount then
        { k.taken v with
          calCount := k.calCount + 1, calSum := k.calSum + v, state := .released, baseline := (k.calSum + v) / 8
          touchRun := 0, noTouchRun := 0, tracking := 0 }
      else { k.taken v with calCount := k.calCount + 1, calSum := k.calSum + v } := by
  unfold Key.calibrate
  exact if_congr (by show 8 ≤ k.calCount + 1 ↔ _; omega) rfl rfl

/-- R165, R167, R169: the outcome of a sound measurement in PRESSED or HOLDING. -/
theorem measure_held {k : Key} {v : Nat}
    (sound : ¬ (v = 4095 ∧ 3 ≤ k.overflowRun) ∧ ¬ (v < 16 ∧ 3 ≤ k.shortRun)) (misses : k.noTouchRun ≤ 2)
    (state : k.state = .pressed ∨ k.state = .holding) :
    k.measure v =
      if k.baseline + k.threshold ≤ v then ({ k.taken v with touchRun := 0, noTouchRun := 0 }, false)
      else if v ≤ k.baseline + k.threshold / 2 then
        if k.noTouchRun = 2 then
          ({ (k.taken v).release with ramp := if k.state = .holding then k.ramp.turn else k.ramp },
            decide (k.state = .pressed))
        else ({ k.taken v with touchRun := 0, noTouchRun := k.noTouchRun + 1 }, false)
      else (k.taken v, false) := by
  rw [measure_sound sound]
  rcases state with pressed | holding
  · simp only [pressed, measureHeld_taken k v misses]
    rfl
  · simp only [holding, measureHeld_taken k v misses]
    by_cases touched : k.baseline + k.threshold ≤ v
    · simp [touched]
    · by_cases missed : v ≤ k.baseline + k.threshold / 2
      · by_cases third : k.noTouchRun = 2
        · simp [touched, missed, third, Key.release, Key.taken]
        · simp [touched, missed, third]
      · simp [touched, missed]

theorem turn_ne (r : Ramp) : r.turn ≠ r := by cases r <;> decide

/-- Settles O50: the faults, then each state by its reading. -/
theorem keyMeasured : Obligations.KeyMeasured := by
  intro k v range touches misses k' touch noTouch sound cleared faulted
  have last : k'.last = v := by
    by_cases overflow : v = 4095 ∧ 3 ≤ k.overflowRun
    · simp only [k', measure_overflow overflow.1 overflow.2, Key.fault]
    by_cases low : v < 16 ∧ 3 ≤ k.shortRun
    · simp only [k', measure_low low.1 low.2, Key.fault]
    exact (measure_sameSample ⟨overflow, low⟩).1
  refine ⟨last, measure_config k v, fun limit run => ?_, fun low run => ?_, fun sound => ?_⟩
  · simp only [faulted, cleared, k', measure_overflow limit run, Key.fault, and_self]
  · simp only [faulted, cleared, k', measure_low low run, Key.fault, and_self]
  have eq := measure_sound sound
  obtain ⟨-, overflowRun, shortRun⟩ := measure_sameSample sound
  refine ⟨overflowRun, shortRun, fun state => ?_, fun state => ?_, fun state => ?_⟩
  · have made : k.measure v = ((k.taken v).calibrate v, false) := by rw [eq, state]
    simp only [k', cleared, made, calibrate_taken]
    by_cases eighth : 7 ≤ k.calCount
    · have notBefore : ¬ k.calCount < 7 := by omega
      simp [eighth, notBefore]
    · simp [eighth, Key.taken, state]
  · have made : k.measure v = ((k.taken v).measureReleased v, false) := by rw [eq, state]
    simp only [k', cleared, made, measureReleased_taken k v touches misses, track_eq]
    by_cases touched : k.baseline + k.threshold ≤ v
    · by_cases third : k.touchRun = 2
      · simp [touch, touched, third, Key.press, Key.taken]
      · have early : k.touchRun < 2 := by omega
        simp [touch, touched, third, early, Key.taken, state]
    · by_cases missed : v ≤ k.baseline + k.threshold / 2
      · simp [touch, noTouch, touched, missed, Key.taken, state]
      · simp [touch, noTouch, touched, missed, Key.taken, state]
  · simp only [k', cleared, measure_held sound misses state]
    by_cases touched : k.baseline + k.threshold ≤ v
    · simp [touch, touched, Key.taken]
    · by_cases missed : v ≤ k.baseline + k.threshold / 2
      · by_cases third : k.noTouchRun = 2
        · rcases state with pressed | holding
          · simp [touch, noTouch, touched, missed, third, pressed, Key.release, Key.taken]
          · simp [touch, noTouch, touched, missed, third, holding, turn_ne, Key.release, Key.taken]
        · have early : k.noTouchRun < 2 := by omega
          simp [touch, noTouch, touched, missed, third, early, Key.taken]
      · simp [touch, noTouch, touched, missed, Key.taken]

end Sys2Proof.Machine

/-! The pins. -/

namespace Sys2Proof.Machine

/-! ## O46: the pins -/

theorem covers_iff (p : Placement) (k : Nat) : p.covers k = true ↔ p.start ≤ k ∧ k < p.start + p.len := by
  simp [Placement.covers]

/-- R152, R154: when OUTn is active. -/
theorem outActive_iff (s : State) (n : Num4) :
    s.outActive n = true ↔
      s.ctl.station = .run ∧ s.out.blank = false ∧ (s.out.chan.get n).faultHold = false ∧
        ∃ p, (s.out.chan.get n).plan = some p ∧ p.start ≤ s.timer.slot ∧ s.timer.slot < p.start + p.len := by
  unfold State.outActive
  cases plan : (s.out.chan.get n).plan with
  | none => simp
  | some p => simp [covers_iff, and_assoc]

/-- R153: the level of an output, by its polarity and its drive type. -/
theorem pinLevel_eq (pol : Polarity) (drive : DriveType) (active : Bool) :
    pinLevel pol drive active =
      if active = true then (if pol = .activeHigh then .high else .low)
      else if drive = .openDrain then .released
      else if pol = .activeHigh then .low else .high := by
  cases pol <;> cases drive <;> cases active <;> rfl

theorem timerRuns_iff (st : StationState) : st.timerRuns = true ↔ st ≠ .loading ∧ st ≠ .halted := by
  cases st <;> decide

/-- R161, R172: KEYn is driven low in the discharge of its own pad alone. -/
theorem keyPin_eq (s : State) (n : Num4) (cycles : Nat) :
    s.keyPin n cycles =
      if s.ctl.station ≠ .loading ∧ s.ctl.station ≠ .halted ∧ s.touch.scan = some n ∧ cycles < 16 then .low
      else .released := by
  unfold State.keyPin
  refine if_congr ?_ rfl rfl
  rw [Bool.and_eq_true, Bool.and_eq_true, timerRuns_iff, beq_iff_eq, decide_eq_true_iff, and_assoc, and_assoc]
  rfl

theorem withinTransaction_iff (cycles : Nat) : withinTransaction cycles = true ↔ cycles < 536 * 16 := by
  rw [withinTransaction, decide_eq_true_iff]
  rfl

/-- R175: the pins of the read transaction after its last CCK cycle. -/
theorem memoryPins_afterTransaction {s : State} (h : s.loader.pins = .transaction) {cycles : Nat}
    (after : 536 * 16 ≤ cycles) :
    s.csnPin cycles = .high ∧ s.cckPin cycles = .low ∧ s.cmosiPin cycles = .low := by
  have ended : withinTransaction cycles = false := by
    rw [Bool.eq_false_iff, ne_eq, withinTransaction_iff]
    omega
  simp [State.csnPin, State.cckPin, State.cmosiPin, h, ended]

/-- R175: CMOSI in the read transaction shows the bit of its CCK cycle. -/
theorem cmosiPin_within {s : State} (h : s.loader.pins = .transaction) {cycles : Nat} (within : cycles < 536 * 16) :
    s.cmosiPin cycles = if s.cmosiBit (cycles / 16) = true then .high else .low := by
  have under : withinTransaction cycles = true := (withinTransaction_iff cycles).mpr within
  simp [State.cmosiPin, h, under, cckCycles]

/-- R175: the pins in the read transaction. -/
theorem memoryPins_within {s : State} (h : s.loader.pins = .transaction) {cycles : Nat} (within : cycles < 536 * 16) :
    s.csnPin cycles = .low ∧ (s.cckPin cycles = if cycles % 16 < 8 then .low else .high) ∧
      (cycles < 24 * 16 → s.cmosiPin cycles = if cycles / 16 = 6 ∨ cycles / 16 = 7 then .high else .low) ∧
      s.cmosiPin cycles ≠ .released ∧ ∀ other, other / 16 = cycles / 16 → s.cmosiPin other = s.cmosiPin cycles := by
  have under : withinTransaction cycles = true := (withinTransaction_iff cycles).mpr within
  refine ⟨by simp [State.csnPin, h, under], ?_, fun command => ?_, ?_, fun other same => ?_⟩
  · by_cases low : cycles % 16 < 8
    · have first : ¬ 16 ≤ 2 * (cycles % 16) := by omega
      simp [State.cckPin, h, under, cckCycles, low, first]
    · have second : 16 ≤ 2 * (cycles % 16) := by omega
      simp [State.cckPin, h, under, cckCycles, low, second]
  · rw [cmosiPin_within h within, cmosiBit_command (by omega)]
    simp
  · rw [cmosiPin_within h within]
    split <;> decide
  · rw [cmosiPin_within h within, cmosiPin_within h (by omega), same]

theorem bitPin_eq (recessive : Bool) : bitPin recessive = if recessive = true then .released else .low := by
  cases recessive <;> rfl

/-- R38, R39: a character on DLN. -/
theorem dlnBit_data {s : State} {a : Attempt} {k i : Nat} {c : Byte} (ha : s.line.attempt = some a)
    (hc : a.message.chars[k]? = some c) (hi : i < 8) :
    s.dlnBit (10 * k + 1 + i) = if c.getLsbD (7 - i) = true then .released else .low := by
  rw [Nat.add_assoc, dlnBit_char ha hc (by omega), charBits_data c i hi]
  exact bitPin_eq _

/-- R38: the sender releases DLN after its last stop bit. -/
theorem dlnBit_after {s : State} {a : Attempt} {bit : Nat} (ha : s.line.attempt = some a)
    (after : 10 * a.message.chars.length ≤ bit) : s.dlnBit bit = .released := by
  unfold State.dlnBit
  have past : a.message.bits[bit]? = none := List.getElem?_eq_none (by rw [Message.bits_length]; exact after)
  simp [ha, List.getD_eq_getElem?_getD, past, bitPin]

/-- R45: a recessive data bit of a character is a bit of that character. -/
theorem sendsRecessive_iff (chars : List Byte) (char bit : Nat) :
    sendsRecessive chars char bit = true ↔
      1 ≤ char ∧ bit ≤ 7 ∧ ∃ c, chars[char - 1]? = some c ∧ c.getLsbD bit = true := by
  unfold sendsRecessive
  cases char_eq : chars[char - 1]? <;> simp [and_assoc]

/-- Settles O46: the outputs, the keys, the memory, then DLN. -/
theorem outputPins : Obligations.OutputPins := by
  refine ⟨fun s n => ?_, fun s a attempt => ?_, fun s bit none => ?_, fun s micros rate => ?_, fun s m => ?_⟩
  · refine ⟨outActive_iff s n, fun free => ?_, fun configured => ?_, fun cycles => ?_⟩
    · simp [State.outPin, free]
    · rw [State.outPin, if_pos configured]
      exact pinLevel_eq _ _ _
    · refine ⟨keyPin_eq s n cycles, fun released => memoryPins_released released cycles, fun rest => ?_,
        fun transaction within => memoryPins_within transaction within⟩
      rcases rest with rest | ⟨transaction, after⟩
      · exact memoryPins_atRest rest cycles
      · exact memoryPins_afterTransaction transaction after
  · refine ⟨fun k c sent => ⟨?_, ?_, fun i data => dlnBit_data attempt sent data⟩,
      fun bit after => dlnBit_after attempt after, fun char bit recessive => ?_⟩
    · exact dlnBit_char (i := 0) attempt sent (by decide)
    · exact dlnBit_char (i := 9) attempt sent (by decide)
    · obtain ⟨first, range, c, sent, set⟩ := (sendsRecessive_iff _ _ _).mp recessive
      have place : 10 * (char - 1) + 8 - bit = 10 * (char - 1) + 1 + (7 - bit) := by omega
      rw [place, dlnBit_data attempt sent (by omega), show 7 - (7 - bit) = bit by omega, if_pos set]
  · simp [State.dlnBit, none]
  · unfold State.dlnPin
    congr 2
    generalize s.cfg.rateCode = code at rate
    match code, rate with
    | 0, _ | 1, _ | 2, _ => rfl
  · refine ⟨fun hears => ?_, fun deaf => ?_⟩
    · unfold State.errorSlotPin State.holdSlotPin
      rw [hears]
      cases s.signalsError m <;> cases s.signalsHold m <;> exact ⟨rfl, rfl⟩
    · simp [State.errorSlotPin, State.holdSlotPin, deaf, bitPin]

end Sys2Proof.Machine

/-! What a record at the head of the queue makes of the node (R61 to R78). -/

namespace Sys2Proof.Machine

/-! ## The frame of a state-changing record -/

theorem stampCase_far_iff {p e : Byte} : stampCase p e = .far ↔ 5 ≤ forward p e ∧ forward p e ≤ 128 := by
  unfold stampCase
  dsimp only
  by_cases pending : 1 ≤ forward p e ∧ forward p e ≤ 4
  · rw [if_pos pending]
    simp only [reduceCtorEq, false_iff]
    omega
  · rw [if_neg pending]
    by_cases far : 5 ≤ forward p e ∧ forward p e ≤ 128 <;> simp [far]

theorem stampCase_overdue_iff {p e : Byte} : stampCase p e = .overdue ↔ forward p e = 0 ∨ 129 ≤ forward p e := by
  unfold stampCase
  dsimp only
  by_cases pending : 1 ≤ forward p e ∧ forward p e ≤ 4
  · rw [if_pos pending]
    simp only [reduceCtorEq, false_iff]
    omega
  · rw [if_neg pending]
    by_cases far : 5 ≤ forward p e ∧ forward p e ≤ 128
    · rw [if_pos far]
      simp only [reduceCtorEq, false_iff]
      omega
    · rw [if_neg far]
      simp only [true_iff]
      omega

/-- R33, R35: the blank flag after a record. -/
theorem blankIfOverdue_eq (s : State) (e : Byte) :
    s.blankIfOverdue e =
      { s with
        out :=
          { s.out with
            blank :=
              s.out.blank || decide (forward s.timer.period e = 0 ∨ 129 ≤ forward s.timer.period e) } } := by
  unfold State.blankIfOverdue
  by_cases overdue : stampCase s.timer.period e = .overdue
  · rw [if_pos overdue]
    simp [stampCase_overdue_iff.mp overdue]
  · rw [if_neg overdue, decide_eq_false (fun late => overdue (stampCase_overdue_iff.mpr late)), Bool.or_false]

/-- R33: the period under which own changes are entered. -/
theorem changePeriod_eq (s : State) (e : Byte) :
    s.changePeriod e =
      if forward s.timer.period e = 0 ∨ 129 ≤ forward s.timer.period e then s.timer.period + 1 else e := by
  unfold State.changePeriod
  by_cases overdue : stampCase s.timer.period e = .overdue
  · rw [if_pos (stampCase_overdue_iff.mp overdue), overdue]
  · rw [if_neg (fun late => overdue (stampCase_overdue_iff.mpr late))]
    cases stamp : stampCase s.timer.period e with
    | overdue => exact absurd stamp overdue
    | pending | far => rfl

theorem someLower_iff (before after : List Nat) :
    someLower before after = true ↔ ∃ k < 128, occupancy after k < occupancy before k := by
  simp [someLower, Config.slots]

/-- R77: relief where the shed level stands. -/
theorem givesRelief_iff {before after : Replica} (level : before.shed.val ≤ after.shed.val) :
    givesRelief before after = true ↔ ∃ k < 128, occupancy after.slotMap k < occupancy before.slotMap k := by
  rw [givesRelief, Bool.or_eq_true, someLower_iff, decide_eq_true_iff]
  exact or_iff_left (Nat.not_lt.mpr level)

/-- R33, R35, R63: the output stage after a record's replica has been recorded. -/
theorem recorded_out (s : State) (e : Byte) (r : Replica) (touched : List Num4) :
    (s.recorded e r touched).out =
      { s.out with
        pending := (s.recorded e r touched).out.pending
        blank := s.out.blank || decide (forward s.timer.period e = 0 ∨ 129 ≤ forward s.timer.period e) } := by
  simp only [State.recorded, blankIfOverdue_eq]
  rfl

theorem recorded_pending_none (s : State) (e : Byte) (r : Replica) :
    (s.recorded e r []).out.pending = s.out.pending := by
  rw [recorded_pending]
  rfl

theorem recorded_eq (s : State) (e : Byte) (r : Replica) (touched : List Num4) :
    s.recorded e r touched = { s with engine := s.engine.recount r, out := (s.recorded e r touched).out } := by
  simp only [State.recorded, blankIfOverdue_eq]
  rfl

/-- A hand-off changes the engine and the channels alone. -/
def HandsOff (f : State → State) : Prop := ∀ s, f s = { s with engine := (f s).engine, chans := (f s).chans }

theorem HandsOff.id : HandsOff id := fun _ => rfl

theorem HandsOff.foldl {α : Type} {f : State → α → State} (h : ∀ x, HandsOff fun s => f s x) (xs : List α) :
    HandsOff fun s => xs.foldl f s := by
  intro s
  induction xs generalizing s with
  | nil => rfl
  | cons x xs ih =>
    have first := h x s
    have rest := ih (f s x)
    simp only [List.foldl_cons]
    dsimp only at first rest
    rw [rest]
    generalize List.foldl f (f s x) xs = u at rest ⊢
    rw [first]

theorem handOutcomes_handsOff (os : List (Num4 × PlaceOutcome)) : HandsOff (handOutcomes os) := by
  refine HandsOff.foldl (fun x s => ?_) os
  dsimp only
  unfold State.handOutcome
  dsimp only
  split <;> rfl

theorem handSheds_handsOff (chs : List Num4) : HandsOff (handSheds chs) := HandsOff.foldl (fun _ _ => rfl) chs

/-- R63: a record changes the engine, the line interface, the output stage and the channels alone. -/
theorem commit_eq_blocks {f : State → State} (hf : HandsOff f) (s : State) (e : Byte) (r : Replica) (touched : List Num4) :
    let t := s.commit e r touched f
    t = { s with engine := t.engine, line := t.line, out := t.out, chans := t.chans } := by
  intro t
  have eq : t = _ := commit_eq s e r touched f
  rw [hf, recorded_eq] at eq
  rw [eq]
  split <;> rfl

theorem commit_chans (s : State) (e : Byte) (r : Replica) (touched : List Num4) (f : State → State) :
    (s.commit e r touched f).chans =
      if givesRelief s.engine.replica r = true then (f (s.recorded e r touched)).chans.map Channel.relief
      else (f (s.recorded e r touched)).chans := by
  rw [commit_eq, State.settleSlots_chans]
  split <;> rfl

/-- R56, R95, R96: the line interface after a record and its removal. -/
theorem commit_dropHead_line {f : State → State} (hf : ∀ s, (f s).line = s.line) {s : State} {r : Record}
    {rest : List Record} (head : AtHead s r rest) (e : Byte) (after : Replica) (touched : List Num4) :
    (s.commit e after touched f).dropHead.line =
      { s.line.popped rest with slots := (s.commit e after touched f).dropHead.settled s.line.slots } := by
  have line := commit_line hf s e after touched
  rw [dropHead_line, line]
  simp only [head.1]
  rfl

/-! ## The commands -/

theorem exec_applyPlace {s : State} {r : Record} {rest : List Record} {e : Byte} {es : List PlaceEntry}
    (head : AtHead s r rest) (run : s.ctl.station = .run) (place : r.payload = .place e es) :
    exec .applyPlace s = .next (s.applyStamped e fun s => s.applyPlaceRecord r.source e es) := by
  have taken : s.useHead = some r := useHead_of_atHead head (by rw [run]; rfl) (by rw [place, run]; rfl)
  obtain ⟨source, lock, stamp, boundary, payload⟩ := r
  subst place
  change execApplyPlace s = _
  simp only [execApplyPlace, taken]

theorem exec_applyJoin {s : State} {r : Record} {rest : List Record} {e : Byte} {d : Word16}
    (head : AtHead s r rest) (run : s.ctl.station = .run) (join : r.payload = .join e d) :
    exec .applyJoin s = .next (s.applyStamped e fun s => s.applyJoinRecord r.source e d) := by
  have taken : s.useHead = some r := useHead_of_atHead head (by rw [run]; rfl) (by rw [join, run]; rfl)
  obtain ⟨source, lock, stamp, boundary, payload⟩ := r
  subst join
  change execApplyJoin s = _
  simp only [execApplyJoin, taken]

theorem exec_applyEvict {s : State} {r : Record} {rest : List Record} {e : Byte} {ps : List Pair}
    (head : AtHead s r rest) (run : s.ctl.station = .run) (evict : r.payload = .evict e ps) :
    exec .applyEvict s = .next (s.applyStamped e fun s => s.applyEvictRecord e ps) := by
  have taken : s.useHead = some r := useHead_of_atHead head (by rw [run]; rfl) (by rw [evict, run]; rfl)
  obtain ⟨source, lock, stamp, boundary, payload⟩ := r
  subst evict
  change execApplyEvict s = _
  simp only [execApplyEvict, taken]

theorem exec_applyShed {s : State} {r : Record} {rest : List Record} {e : Byte} {l : Num4}
    (head : AtHead s r rest) (run : s.ctl.station = .run) (shed : r.payload = .shed e l) :
    exec .applyShed s = .next (s.applyStamped e fun s => s.applyShedRecord e l) := by
  have taken : s.useHead = some r := useHead_of_atHead head (by rw [run]; rfl) (by rw [shed, run]; rfl)
  obtain ⟨source, lock, stamp, boundary, payload⟩ := r
  subst shed
  change execApplyShed s = _
  simp only [execApplyShed, taken]

theorem applyStamped_far {s : State} {e : Byte} (f : State → State)
    (far : 5 ≤ forward s.timer.period e ∧ forward s.timer.period e ≤ 128) :
    s.applyStamped e f = s.warmRestart.dropHead := by
  rw [State.applyStamped, if_pos (stampCase_far_iff.mpr far)]

theorem applyStamped_near {s : State} {e : Byte} (f : State → State)
    (near : ¬ (5 ≤ forward s.timer.period e ∧ forward s.timer.period e ≤ 128)) :
    s.applyStamped e f = (f s).dropHead := by
  rw [State.applyStamped, if_neg (fun far => near (stampCase_far_iff.mp far))]

/-! ## O28: far records -/

/-- R32: a far record of any of the four state-changing kinds. -/
theorem exec_far {s : State} {r : Record} {rest : List Record} {e : Byte} {c : Instr} (head : AtHead s r rest)
    (run : s.ctl.station = .run) (stamp : r.payload.e = some e)
    (far : 5 ≤ forward s.timer.period e ∧ forward s.timer.period e ≤ 128)
    (command : (c, r.payload.kind) ∈
      ([(.applyJoin, 1), (.applyEvict, 5), (.applyPlace, 6), (.applyShed, 7)] : List (Instr × Nat))) :
    exec c s = .next s.warmRestart.dropHead := by
  cases payload : r.payload with
  | place e' es =>
    rw [payload] at stamp command
    cases stamp
    obtain rfl : c = .applyPlace := by simpa [Payload.kind] using command
    rw [exec_applyPlace head run payload, applyStamped_far _ far]
  | join e' d =>
    rw [payload] at stamp command
    cases stamp
    obtain rfl : c = .applyJoin := by simpa [Payload.kind] using command
    rw [exec_applyJoin head run payload, applyStamped_far _ far]
  | evict e' ps =>
    rw [payload] at stamp command
    cases stamp
    obtain rfl : c = .applyEvict := by simpa [Payload.kind] using command
    rw [exec_applyEvict head run payload, applyStamped_far _ far]
  | shed e' l =>
    rw [payload] at stamp command
    cases stamp
    obtain rfl : c = .applyShed := by simpa [Payload.kind] using command
    rw [exec_applyShed head run payload, applyStamped_far _ far]
  | _ =>
    rw [payload] at stamp
    cases stamp

/-- R57, R106: the line interface after a warm restart and the removal of the head, with no attempt under way. -/
theorem warmRestart_dropHead_line_free {s : State} (free : s.line.attempt = none) :
    s.warmRestart.dropHead.line =
      { s.line with
        inbound := [], holdLatch := false, restartPending := false
        slots := { TxSlots.empty with joinFoundHolds := some .join } } := by
  rw [dropHead_line, warmRestart_line, free]
  rfl

/-- R57: the same during an attempt of the node's own. -/
theorem warmRestart_dropHead_line_busy {s : State} {r : Record} {rest : List Record} (queue : s.line.inbound = r :: rest)
    (busy : s.line.attempt ≠ none) :
    s.warmRestart.dropHead.line = { s.line.popped rest with restartPending := true } := by
  rw [dropHead_line, warmRestart_line, if_pos (Option.isSome_iff_ne_none.mpr busy), queue]
  rfl

/-- R154: after a warm restart no output is active. -/
theorem warmRestart_outActive (s : State) (n : Num4) : s.warmRestart.dropHead.outActive n = false := by
  refine outActive_outside_run ?_ n
  rw [State.dropHead_ctl, (warmRestart_blocks s).2.2.2.2]
  simp

/-- Settles O28: block by block. -/
theorem farRecordRestarts : Obligations.FarRecordRestarts := by
  intro s r rest e c head run stamp lo hi command
  obtain ⟨timer, engine, chans, out, ctl⟩ := warmRestart_blocks s
  refine ⟨_, exec_far head run stamp ⟨lo, hi⟩ command, by simp, by simp, by simp, by simp, by simp, ?_, ?_, ?_,
    warmRestart_outActive s, fun n => ?_, ?_, warmRestart_dropHead_line_free, warmRestart_dropHead_line_busy head.1⟩
  · rw [State.dropHead_timer, timer]
    rfl
  · rw [State.dropHead_engine, engine]
    rfl
  · rw [State.dropHead_out, out]
    rfl
  · rw [State.dropHead_chans, chans, Four.get_map]
    exact restart_eq _
  · rw [State.dropHead_ctl, ctl]

/-! ## O31: a JOIN of another digest -/

/-- Settles O31. -/
theorem mismatchedJoinApplied : Obligations.MismatchedJoinApplied := by
  intro s r rest e d head run join other far
  refine ⟨fun near => ?_, fun isFar => ?_⟩
  · rw [exec_applyJoin head run join, applyStamped_near _ near, applyJoinRecord_mismatch other, blankIfOverdue_eq]
    exact congrArg Host.Outcome.next (dropHead_popped head.1)
  · rw [exec_applyJoin head run join, applyStamped_far _ isFar]

/-! ## O34: SHED at the level in force or a lower one -/

theorem shedTo_low {s : State} {l : Num4} (low : l.val ≤ s.engine.replica.shed.val) :
    s.shedTo l = { s.engine.replica with shed := l } ∧ s.shedOwn l = [] := by
  have notRaised : ¬ s.engine.replica.shed.val < l.val := by omega
  simp [State.shedTo, State.shedOwn, shedReplica, notRaised, ownChannels]

/-- R14: the term of the shed level in the state check. -/
theorem stateCheck_lowered {r : Replica} {l : Num4} (low : l.val ≤ r.shed.val) :
    stateCheck { r with shed := l } + BitVec.ofNat 16 (4096 * (r.shed.val - l.val)) = stateCheck r := by
  unfold stateCheck
  rw [← BitVec.ofNat_add]
  congr 1
  dsimp only
  omega

/-- R77: what a lower shed level gives. -/
theorem givesRelief_lowered {r : Replica} {l : Num4} :
    givesRelief r { r with shed := l } = true ↔ l.val < r.shed.val := by
  simp [givesRelief, someLower]

/-- Settles O34. -/
theorem shedNotRaised : Obligations.ShedNotRaised := by
  intro s r rest e level head run shed low far after
  refine ⟨fun near => ?_, fun isFar => ?_⟩
  · obtain ⟨replica, own⟩ := shedTo_low low
    have record : s.applyShedRecord e level = s.commit e { s.engine.replica with shed := level } [] id := by
      rw [applyShedRecord_eq, replica, own]
      rfl
    have engine : (s.applyShedRecord e level).dropHead.engine =
        { s.engine with replica := after, heldCheck := stateCheck after } := by
      rw [State.dropHead_engine, record, commit_engine]
      exact recorded_engine _ _ _ _
    refine ⟨(s.applyShedRecord e level).dropHead, ?_, engine, ?_, ?_, ?_, ?_, ?_⟩
    · rw [exec_applyShed head run shed, applyStamped_near _ near]
    · rw [engine]
      exact stateCheck_lowered low
    · rw [State.dropHead_chans, record, commit_chans, id, recorded_chans]
      exact if_congr givesRelief_lowered rfl rfl
    · rw [State.dropHead_out, record, commit_out (f := id) (fun _ => rfl), recorded_out, recorded_pending_none]
    · rw [record]
      exact commit_dropHead_line (fun _ => rfl) head _ _ _
    · rw [record]
      have blocks := commit_eq_blocks HandsOff.id s e { s.engine.replica with shed := level } []
      exact congrArg (fun u : State => { u with engine := s.engine, line := s.line, out := s.out, chans := s.chans }) blocks
  · rw [exec_applyShed head run shed, applyStamped_far _ isFar]

end Sys2Proof.Machine

/-! PLACE, JOIN and EVICT at the head of the queue (R65 to R73). -/

namespace Sys2Proof.Machine

/-! ## O30: PLACE -/

theorem handOutcome_holdsEntry (s : State) (x : Num4 × PlaceOutcome) (n : Num4) :
    (s.handOutcome x).holdsEntry n = s.holdsEntry n := by
  unfold State.handOutcome
  dsimp only
  split <;> rfl

theorem handOutcome_chans (s : State) (x : Num4 × PlaceOutcome) :
    (s.handOutcome x).chans = s.chans.set x.1 ((s.chans.get x.1).outcome (s.holdsEntry x.1) x.2) := by
  unfold State.handOutcome
  dsimp only
  split <;> rfl

/-- R69: a rejection is counted. -/
def countOutcome (n : Byte) (x : Num4 × PlaceOutcome) : Byte :=
  match x.2 with
  | .rejected _ => satInc n
  | _ => n

theorem handOutcome_rejected (s : State) (x : Num4 × PlaceOutcome) :
    (s.handOutcome x).engine.rejected = countOutcome s.engine.rejected x := by
  unfold State.handOutcome countOutcome
  dsimp only
  split <;> simp [*]

/-- R143: the own outcomes on the channels, in order. -/
theorem handOutcomes_chans (os : List (Num4 × PlaceOutcome)) (s : State) :
    (handOutcomes os s).chans =
      os.foldl (fun cs y => cs.set y.1 ((cs.get y.1).outcome (s.holdsEntry y.1) y.2)) s.chans := by
  induction os generalizing s with
  | nil => rfl
  | cons x xs ih =>
    have next := ih (s.handOutcome x)
    simp only [handOutcome_holdsEntry, handOutcome_chans] at next
    exact next

theorem handOutcomes_rejected (os : List (Num4 × PlaceOutcome)) (s : State) :
    (handOutcomes os s).engine.rejected = os.foldl countOutcome s.engine.rejected := by
  induction os generalizing s with
  | nil => rfl
  | cons x xs ih =>
    have next := ih (s.handOutcome x)
    rw [handOutcome_rejected] at next
    exact next

theorem mem_touchedBy {os : List (Num4 × PlaceOutcome)} {n : Num4} :
    n ∈ touchedBy os ↔ ∃ o, (n, o) ∈ os ∧ o.touches = true := by
  simp [touchedBy]

/-- R36, R63, R151: the Pending Change Queue after a record, entry by entry. -/
theorem mem_recorded_pending {s : State} {e : Byte} {r : Replica} {touched : List Num4} {z : PendingChange}
    (h : z ∈ (s.recorded e r touched).out.pending) :
    z ∈ s.out.pending ∨
      (z.channel ∈ touched ∧ (s.chans.get z.channel).state ≠ .unused ∧ z.e = s.changePeriod e ∧
        z.placement = (claimOf r.claims s.own z.channel).map Claim.placement) := by
  rw [recorded_pending] at h
  exact mem_addPendings h

theorem recorded_pending_old {s : State} {e : Byte} {r : Replica} {touched : List Num4} {z : PendingChange}
    (h : z ∈ s.out.pending) :
    z ∈ (s.recorded e r touched).out.pending ∨
      (z.e = s.changePeriod e ∧ (s.chans.get z.channel).state ≠ .unused ∧ z.channel ∈ touched) := by
  rw [recorded_pending]
  exact addPendings_old (s := { s with engine := s.engine.recount r }) h

theorem recorded_pending_mem {s : State} {e : Byte} {r : Replica} {touched : List Num4} {n : Num4} (h : n ∈ touched)
    (used : (s.chans.get n).state ≠ .unused) :
    ({ channel := n, e := s.changePeriod e, placement := (claimOf r.claims s.own n).map Claim.placement } :
        PendingChange) ∈ (s.recorded e r touched).out.pending := by
  rw [recorded_pending]
  exact addPendings_mem (s := { s with engine := s.engine.recount r }) h used

/-- R63: the engine after a record whose hand-off counts rejections. -/
theorem applyPlaceRecord_engine (s : State) (source : Nat) (e : Byte) (es : List PlaceEntry) :
    (s.applyPlaceRecord source e es).engine =
      { s.engine.recount (s.placedReplica source es) with
        rejected := (s.ownOutcomes source es).foldl countOutcome s.engine.rejected } := by
  have rejected := handOutcomes_rejected (s.ownOutcomes source es)
    (s.recorded e (s.placedReplica source es) (touchedBy (s.ownOutcomes source es)))
  rw [recorded_engine] at rejected
  rw [applyPlaceRecord_eq, commit_engine, handOutcomes_engine, rejected, recorded_engine]
  rfl

/-- R77, R143: the channels after a PLACE record. -/
theorem applyPlaceRecord_chans (s : State) (source : Nat) (e : Byte) (es : List PlaceEntry) :
    let cs :=
      (s.ownOutcomes source es).foldl
        (fun cs y =>
          cs.set y.1
            ((cs.get y.1).outcome (claimOf (s.placedReplica source es).claims s.own y.1).isSome y.2)) s.chans
    let fell := ∃ k < 128, occupancy (s.placedReplica source es).slotMap k < occupancy s.engine.replica.slotMap k
    (fell → (s.applyPlaceRecord source e es).chans = cs.map Channel.relief) ∧
      (¬ fell → (s.applyPlaceRecord source e es).chans = cs) := by
  intro cs fell
  obtain ⟨-, -, shed, -⟩ := placeEntries_spec s.cfg.guard s.budgetNow source es s.engine.replica
  have relief := givesRelief_iff (before := s.engine.replica) (after := s.placedReplica source es)
    (Nat.le_of_eq (congrArg Fin.val shed.symm))
  have handed := handOutcomes_chans (s.ownOutcomes source es)
    (s.recorded e (s.placedReplica source es) (touchedBy (s.ownOutcomes source es)))
  simp only [State.holdsEntry, State.own, recorded_engine, recorded_loader, recorded_chans, recount_replica] at handed
  refine ⟨fun falls => ?_, fun stands => ?_⟩
  · rw [applyPlaceRecord_eq, commit_chans, if_pos (relief.mpr falls), handed]
    rfl
  · rw [applyPlaceRecord_eq, commit_chans, if_neg (fun gives => stands (relief.mp gives)), handed]
    rfl

theorem ownOutcomes_far {s : State} {source : Nat} (far : source ≠ s.own) (es : List PlaceEntry) :
    s.ownOutcomes source es = [] := if_neg far

theorem ownOutcomes_own {s : State} {source : Nat} (own : source = s.own) (es : List PlaceEntry) :
    s.ownOutcomes source es = (placeEntries s.cfg.guard s.budgetNow source s.engine.replica es).2 := if_pos own

theorem applyPlaceRecord_pending (s : State) (source : Nat) (e : Byte) (es : List PlaceEntry) :
    (s.applyPlaceRecord source e es).out.pending =
      (s.recorded e (s.placedReplica source es) (touchedBy (s.ownOutcomes source es))).out.pending := by
  rw [applyPlaceRecord_eq, commit_out (handOutcomes_out _)]

/-- Settles O30. -/
theorem placeRecordApplied : Obligations.PlaceRecordApplied := by
  refine ⟨fun guard budget source r p ps => ⟨rfl, rfl⟩, fun s r rest e es head run place near => ?_⟩
  intro before x after overdue due fell
  have due_eq : s.changePeriod e = due := changePeriod_eq s e
  obtain ⟨relieved, standing⟩ := applyPlaceRecord_chans s r.source e es
  have line := commit_dropHead_line (handOutcomes_line (s.ownOutcomes r.source es)) head e (s.placedReplica r.source es)
    (touchedBy (s.ownOutcomes r.source es))
  have blocks := commit_eq_blocks (handOutcomes_handsOff (s.ownOutcomes r.source es)) s e (s.placedReplica r.source es)
    (touchedBy (s.ownOutcomes r.source es))
  have stateCount : (s.placedReplica r.source es).stateCount = before.stateCount :=
    (placeEntries_spec s.cfg.guard s.budgetNow r.source es before).2.2.2.2
  have engine := applyPlaceRecord_engine s r.source e es
  refine ⟨(s.applyPlaceRecord r.source e es).dropHead, ?_, ?_, line, ?_, ?_, fun far => ?_, fun own => ?_⟩
  · rw [exec_applyPlace head run place, applyStamped_near _ near]
  · rw [State.dropHead_engine, engine, Engine.recount, stateCount]
    rfl
  · rw [State.dropHead_out, applyPlaceRecord_eq, commit_out (handOutcomes_out _), recorded_out]
  · exact congrArg
      (fun u : State => { u with engine := s.engine, line := s.line, out := s.out, chans := s.chans }) blocks
  · have none := ownOutcomes_far far es
    rw [none] at relieved standing
    refine ⟨?_, ?_, relieved, standing⟩
    · rw [State.dropHead_engine, engine, none]
      rfl
    · rw [State.dropHead_out, applyPlaceRecord_pending, none]
      exact recorded_pending_none s e _
  · have outcomes : s.ownOutcomes r.source es = x.2 := ownOutcomes_own own es
    rw [outcomes] at relieved standing
    rw [State.dropHead_out, State.dropHead_engine, applyPlaceRecord_pending, engine, outcomes, ← due_eq]
    refine ⟨fun y mem touches used => ?_, fun z mem => ?_, fun z mem => ?_, rfl, relieved, standing⟩
    · exact recorded_pending_mem (mem_touchedBy.mpr ⟨y.2, mem, touches⟩) used
    · rcases mem_recorded_pending mem with old | ⟨touched, used, period, -⟩
      · exact .inl old
      · exact .inr ⟨period, used, mem_touchedBy.mp touched⟩
    · rcases recorded_pending_old mem with kept | ⟨period, used, touched⟩
      · exact .inl kept
      · exact .inr ⟨period, used, mem_touchedBy.mp touched⟩

/-! ## O32: JOIN of the line's digest -/

/-- R121: the counter of a station that enters starts at what a station without one counts. -/
theorem silenceOf_addSilence (own source : Nat) (ms : List Member) (ss : List Silence) (st : Nat) :
    silenceOf (addSilence own source ms ss) st = silenceOf ss st := by
  unfold addSilence
  split
  · rfl
  · unfold silenceOf
    rw [List.find?_append]
    cases ss.find? fun x => x.station == st with
    | some x => rfl
    | none =>
      simp only [Option.none_or, List.find?_singleton]
      split
      next found =>
        split at found <;> cases found
        rfl
      · rfl

theorem memberOf_insertMember_self {x : Member} {ms : List Member} (absent : isMember ms x.station = false) :
    memberOf (insertMember x ms) x.station = some x := by
  induction ms with
  | nil => simp [insertMember, memberOf]
  | cons y ys ih =>
    simp only [isMember, List.any_cons, Bool.or_eq_false_iff] at absent ih
    unfold insertMember
    split
    · simp [memberOf]
    · simp only [memberOf, List.find?_cons, absent.1] at ih ⊢
      exact ih absent.2

/-- R71: what a JOIN makes of the joiner's Roster entry. -/
theorem memberOf_joinRoster_self (source : Nat) (ms : List Member) :
    memberOf (joinRoster source ms) source =
      some
        { station := source
          incarnation := match memberOf ms source with
            | some m => m.incarnation + 1
            | none => 0 } := by
  unfold joinRoster
  by_cases member : isMember ms source = true
  · rw [if_pos member]
    have found : memberOf (ms.map fun m =>
        if m.station = source then { m with incarnation := m.incarnation + 1 } else m) source =
          (memberOf ms source).map fun m =>
            if m.station = source then { m with incarnation := m.incarnation + 1 } else m := by
      unfold memberOf
      rw [List.find?_map]
      congr 2
      funext m
      simp only [Function.comp]
      split <;> rfl
    rw [found]
    cases held : memberOf ms source with
    | none =>
      rw [← memberOf_isSome, held] at member
      cases member
    | some m =>
      obtain ⟨-, station⟩ := memberOf_some held
      rw [Option.map_some, if_pos station, ← station]
  · rw [if_neg member]
    have absent : isMember ms source = false := by simpa using member
    have none : memberOf ms source = none := by
      rw [← Option.not_isSome_iff_eq_none, memberOf_isSome]
      exact member
    rw [none]
    exact memberOf_insertMember_self (x := { station := source, incarnation := 0 }) absent

theorem joinRoster_sorted {st : Nat} {ms : List Member} (sorted : ms.Pairwise fun a b => a.station < b.station) :
    (joinRoster st ms).Pairwise fun a b => a.station < b.station := by
  unfold joinRoster
  by_cases member : isMember ms st = true
  · rw [if_pos member, List.pairwise_map]
    refine sorted.imp fun {a b} before => ?_
    split <;> split <;> exact before
  · rw [if_neg member]
    exact (insertMember_spec { station := st, incarnation := 0 } ms).2 sorted (by simpa using member)

/-- R95, R96: what the slots settled take from the controller. -/
theorem settled_controller (s : State) {c : Controller} (station : c.station = s.ctl.station)
    (silence : ∀ st, silenceOf c.silence st = silenceOf s.ctl.silence st) (slots : TxSlots) :
    State.settled { s with ctl := c } slots = s.settled slots := by
  have owed : State.toEvict { s with ctl := c } = s.toEvict := by
    unfold State.toEvict
    refine List.filter_congr fun m _ => ?_
    rw [silence]
    rfl
  unfold State.settled
  rw [owed, station]

/-- R95, R96, R121: a JOIN's new silence counter owes no eviction. -/
theorem joined_settled (s : State) (source : Nat) (e : Byte) (slots : TxSlots) :
    (s.joined source e).settled slots =
      (s.commit e (s.engine.replica.joined source) (s.joinTouched source) id).settled slots := by
  unfold State.joined
  dsimp only
  generalize s.commit e (s.engine.replica.joined source) (s.joinTouched source) id = u
  refine settled_controller u (c := { u.ctl with silence := addSilence .., ownIncarnation := _ }) rfl ?_ slots
  exact silenceOf_addSilence _ _ _ _

/-- R56, R95, R96: the line interface after a JOIN and its removal. -/
theorem joined_line {s : State} {r : Record} {rest : List Record} (head : AtHead s r rest) (source : Nat) (e : Byte) :
    (s.joined source e).oweDump.dropHead.line =
      { s.line.popped rest with slots := (s.joined source e).oweDump.dropHead.settled s.line.slots } := by
  have line := commit_dropHead_line (f := id) (fun _ => rfl) head e (s.engine.replica.joined source)
    (s.joinTouched source)
  have settled := joined_settled s source e s.line.slots
  exact line.trans (congrArg (fun slots => { s.line.popped rest with slots := slots }) settled.symm)

/-- R77, R144: the channels after a JOIN. -/
theorem joined_chans (s : State) (source : Nat) (e : Byte) :
    (s.joined source e).chans =
      if givesRelief s.engine.replica (s.engine.replica.joined source) = true then s.chans.map Channel.relief
      else s.chans := by
  have chans := commit_chans s e (s.engine.replica.joined source) (s.joinTouched source) id
  rw [id, recorded_chans] at chans
  exact chans

theorem joined_out (s : State) (source : Nat) (e : Byte) :
    (s.joined source e).out = (s.recorded e (s.engine.replica.joined source) (s.joinTouched source)).out :=
  commit_out (f := id) (fun _ => rfl) s e _ _

/-- R63: a JOIN changes the engine, the line interface, the output stage, the channels and the controller alone. -/
theorem joined_rest (s : State) (source : Nat) (e : Byte) :
    { s.joined source e with engine := s.engine, line := s.line, out := s.out, chans := s.chans, ctl := s.ctl } = s :=
  congrArg
    (fun u : State => { u with engine := s.engine, line := s.line, out := s.out, chans := s.chans, ctl := s.ctl })
    (commit_eq_blocks HandsOff.id s e (s.engine.replica.joined source) (s.joinTouched source))

/-- R121: a silence counter for a station of another number. -/
theorem addSilence_other {own source : Nat} (other : source ≠ own) (ms : List Member) (ss : List Silence) :
    addSilence own source ms ss =
      if isMember ms source = true then ss else ss ++ [{ station := source, count := 0 }] := by
  simp [addSilence, other]

/-- Settles O32. -/
theorem joinRecordApplied : Obligations.JoinRecordApplied := by
  intro s r rest e head run join other agrees law near before
  have engine : (s.joined r.source e).oweDump.dropHead.engine =
      { s.engine.recount (before.joined r.source) with dumpOwed := true } :=
    congrArg (fun x : Engine => { x with dumpOwed := true }) (joined_engine s r.source e)
  have untouched : s.joinTouched r.source = [] := if_neg other
  have relief := givesRelief_iff (before := before) (after := before.joined r.source) (Nat.le_refl _)
  have chans := joined_chans s r.source e
  refine ⟨(s.joined r.source e).oweDump.dropHead, ?_, ?_⟩
  · rw [exec_applyJoin head run join, applyStamped_near _ near, applyJoinRecord_match rfl]
  rw [engine]
  refine ⟨rfl, agrees.removeWhere _, rfl, rfl, rfl, rfl, fun st others => memberOf_joinRoster (Ne.symm others) _,
    memberOf_joinRoster_self _ _, joinRoster_sorted law.1, rfl, joined_rest s r.source e, ?_, ?_, joined_line head r.source e,
    fun fell => ?_, fun stands => ?_⟩
  · rw [State.dropHead_ctl, oweDump_ctl, joined_ctl, addSilence_other other, if_neg other]
  · rw [State.dropHead_out, oweDump_out, joined_out, untouched, recorded_out, recorded_pending_none]
  · rw [State.dropHead_chans, oweDump_chans, chans, if_pos (relief.mpr fell)]
  · rw [State.dropHead_chans, oweDump_chans, chans, if_neg]
    rintro gives
    obtain ⟨k, bound, lower⟩ := relief.mp gives
    exact absurd (stands k bound) (Nat.not_le.mpr lower)

end Sys2Proof.Machine

/-! EVICT and a raised SHED level at the head of the queue (R72 to R76). -/

namespace Sys2Proof.Machine

/-! ## O33: EVICT -/

/-- R72: some pair takes station `st` out of the Roster. -/
def Leaves (ms : List Member) (ps : List Pair) (st : Nat) : Prop :=
  ∃ p ∈ ps, p.station.toNat = st ∧ pairMatches ms p = true

theorem pairMatches_evictStation (r : Replica) (st : Nat) (p : Pair) :
    pairMatches (r.evictStation st).roster p = true ↔ pairMatches r.roster p = true ∧ p.station.toNat ≠ st := by
  simp only [pairMatches, Replica.evictStation_roster, List.any_filter, List.any_eq_true, Bool.and_eq_true, beq_iff_eq,
    bne_iff_ne]
  constructor
  · rintro ⟨m, mem, stays, station, incarnation⟩
    exact ⟨⟨m, mem, station, incarnation⟩, station ▸ stays⟩
  · rintro ⟨⟨m, mem, station, incarnation⟩, other⟩
    exact ⟨m, mem, station ▸ other, station, incarnation⟩

theorem leaves_evictStation (r : Replica) (a : Nat) (ps : List Pair) (st : Nat) :
    Leaves (r.evictStation a).roster ps st ↔ Leaves r.roster ps st ∧ st ≠ a := by
  constructor
  · rintro ⟨p, mem, rfl, hit⟩
    obtain ⟨before, other⟩ := (pairMatches_evictStation r a p).mp hit
    exact ⟨⟨p, mem, rfl, before⟩, other⟩
  · rintro ⟨⟨p, mem, rfl, hit⟩, other⟩
    exact ⟨p, mem, rfl, (pairMatches_evictStation r a p).mpr ⟨hit, other⟩⟩

theorem leaves_cons (ms : List Member) (p : Pair) (ps : List Pair) (st : Nat) :
    Leaves ms (p :: ps) st ↔ (p.station.toNat = st ∧ pairMatches ms p = true) ∨ Leaves ms ps st := by
  simp [Leaves]

/-- R73: the pairs meet the own station when its pair matches the Roster they began with. -/
theorem evictPairs_self (own : Nat) (ps : List Pair) : ∀ r : Replica,
    (evictPairs own r ps).2 = true ↔ Leaves r.roster ps own := by
  induction ps with
  | nil => simp [evictPairs, Leaves]
  | cons p ps ih =>
    intro r
    rw [leaves_cons]
    unfold evictPairs
    by_cases hit : pairMatches r.roster p = true
    · rw [if_pos hit]
      by_cases self : p.station.toNat = own
      · simp [self, hit]
      · rw [if_neg self, ih, leaves_evictStation]
        have others : own ≠ p.station.toNat := Ne.symm self
        simp [self, others]
    · rw [if_neg hit, ih]
      simp [hit]

/-- R72: what the pairs of an EVICT leave in the Roster and in the Claim List. -/
theorem evictPairs_mem (own : Nat) (ps : List Pair) : ∀ r : Replica, ¬ Leaves r.roster ps own →
    (∀ m, m ∈ (evictPairs own r ps).1.roster ↔ m ∈ r.roster ∧ ¬ Leaves r.roster ps m.station) ∧
      ∀ c, c ∈ (evictPairs own r ps).1.claims ↔ c ∈ r.claims ∧ ¬ Leaves r.roster ps c.station := by
  induction ps with
  | nil => simp [evictPairs, Leaves]
  | cons p ps ih =>
    intro r stays
    rw [leaves_cons, not_or] at stays
    unfold evictPairs
    by_cases hit : pairMatches r.roster p = true
    · have other : p.station.toNat ≠ own := fun self => stays.1 ⟨self, hit⟩
      rw [if_pos hit, if_neg other]
      have stays' : ¬ Leaves (r.evictStation p.station.toNat).roster ps own := by
        rw [leaves_evictStation]
        exact fun both => stays.2 both.1
      obtain ⟨members, claims⟩ := ih _ stays'
      have step : ∀ st, (st ≠ p.station.toNat ∧ ¬ Leaves (r.evictStation p.station.toNat).roster ps st) ↔
          ¬ Leaves r.roster (p :: ps) st := by
        intro st
        rw [leaves_evictStation, leaves_cons]
        by_cases same : st = p.station.toNat
        · simp [same, hit]
        · simp [same, Ne.symm same]
      refine ⟨fun m => ?_, fun c => ?_⟩
      · rw [members, ← step, Replica.evictStation_roster, List.mem_filter, bne_iff_ne, and_assoc]
      · rw [claims, ← step, Replica.evictStation_claims, List.mem_filter, and_assoc]
        simp
    · rw [if_neg hit]
      obtain ⟨members, claims⟩ := ih r stays.2
      refine ⟨fun m => ?_, fun c => ?_⟩
      · rw [members, leaves_cons]
        simp [hit]
      · rw [claims, leaves_cons]
        simp [hit]

/-- R73: after the warm restart of a node that has been evicted. -/
theorem warmRestart_evicted {s : State} (free : s.line.attempt = none) :
    s.warmRestart.dropHead.ctl.station = .joinSend ∧ s.warmRestart.dropHead.ctl.rejoins = satInc s.ctl.rejoins ∧
      s.warmRestart.dropHead.engine.replica = .empty ∧ s.warmRestart.dropHead.out.pending = [] ∧
      s.warmRestart.dropHead.line.inbound = [] ∧ ∀ n, s.warmRestart.dropHead.outActive n = false := by
  obtain ⟨-, engine, -, out, ctl⟩ := warmRestart_blocks s
  refine ⟨?_, ?_, ?_, ?_, ?_, warmRestart_outActive s⟩
  · rw [State.dropHead_ctl, ctl]
  · rw [State.dropHead_ctl, ctl]
  · rw [State.dropHead_engine, engine]
    rfl
  · rw [State.dropHead_out, out]
    rfl
  · rw [warmRestart_dropHead_line_free free]

/-- Settles O33. -/
theorem evictRecordApplied : Obligations.EvictRecordApplied := by
  intro s r rest e ps head run evict law agrees near before leaves
  have exec_eq : exec .applyEvict s = .next (s.applyEvictRecord e ps).dropHead := by
    rw [exec_applyEvict head run evict, applyStamped_near _ near]
  refine ⟨fun stays => ?_, fun self => ?_⟩
  · have others : (evictPairs s.own before ps).2 = false := by
      rw [Bool.eq_false_iff, ne_eq, evictPairs_self]
      exact stays
    obtain ⟨members, claims⟩ := evictPairs_mem s.own ps before stays
    obtain ⟨follows, roster, list, -, shed, cursor, count⟩ := evictPairs_spec s.own ps before
    let u := s.pruned (s.evictedReplica ps).roster
    have record : s.applyEvictRecord e ps = u.commit e (s.evictedReplica ps) [] id := applyEvictRecord_others others
    have engine : (s.applyEvictRecord e ps).dropHead.engine = s.engine.recount (s.evictedReplica ps) := by
      rw [State.dropHead_engine, record, commit_engine]
      exact recorded_engine u e _ _
    have relief := givesRelief_iff (before := before) (after := s.evictedReplica ps)
      (Nat.le_of_eq (congrArg Fin.val shed.symm))
    have chans : (s.applyEvictRecord e ps).dropHead.chans =
        if givesRelief before (s.evictedReplica ps) = true then s.chans.map Channel.relief else s.chans := by
      rw [State.dropHead_chans, record, commit_chans, id, recorded_chans]
      rfl
    refine ⟨_, exec_eq, ?_⟩
    rw [engine]
    refine ⟨members, claims, roster, list, follows agrees, congrArg (· + 1) count, rfl, shed, cursor, rfl, ?_, ?_, ?_,
      fun fell => ?_, fun stands => ?_, ?_⟩
    · rw [record]
      have blocks := commit_eq_blocks HandsOff.id u e (s.evictedReplica ps) []
      exact congrArg
        (fun v : State => { v with engine := s.engine, line := s.line, out := s.out, chans := s.chans, ctl := s.ctl })
        blocks
    · rw [State.dropHead_ctl, record, commit_ctl (f := id) (fun _ => rfl)]
      rfl
    · rw [State.dropHead_out, record, commit_out (f := id) (fun _ => rfl), recorded_out, recorded_pending_none]
      rfl
    · rw [chans, if_pos (relief.mpr fell)]
    · rw [chans, if_neg]
      rintro gives
      obtain ⟨k, bound, lower⟩ := relief.mp gives
      exact absurd (stands k bound) (Nat.not_le.mpr lower)
    · rw [record]
      exact commit_dropHead_line (s := u) (f := id) (fun _ => rfl) head e (s.evictedReplica ps) []
  · have restart : s.applyEvictRecord e ps = s.warmRestart :=
      applyEvictRecord_self ((evictPairs_self s.own ps before).mpr self)
    rw [restart] at exec_eq
    exact ⟨exec_eq, fun free => ⟨_, exec_eq, warmRestart_evicted free⟩⟩

/-! ## O35: SHED at a higher level -/

/-- R75: the choice between the entry so far and the next one in the list. -/
def laterOf (best : Option Claim) (c : Claim) : Option Claim :=
  match best with
  | none => some c
  | some b => if b.cls ≤ c.cls then some c else some b

theorem shedChoice_eq (m : List Nat) (budget : Nat) (cs : List Claim) :
    shedChoice m budget cs = (cs.filter (coversOver m budget)).foldl laterOf none := rfl

/-- R75: the choice falls on the last of the highest class. -/
theorem foldl_laterOf (cs : List Claim) : ∀ b c, cs.foldl laterOf (some b) = some c →
    ∃ l₁ l₂, b :: cs = l₁ ++ c :: l₂ ∧ (∀ d ∈ l₁, d.cls ≤ c.cls) ∧ ∀ d ∈ l₂, d.cls < c.cls := by
  induction cs with
  | nil =>
    rintro b c ⟨rfl⟩
    exact ⟨[], [], rfl, by simp, by simp⟩
  | cons d ds ih =>
    intro b c chosen
    rw [List.foldl_cons] at chosen
    by_cases up : b.cls ≤ d.cls
    · rw [show laterOf (some b) d = some d from if_pos up] at chosen
      obtain ⟨l₁, l₂, parts, below, above⟩ := ih d c chosen
      refine ⟨b :: l₁, l₂, by rw [parts, List.cons_append], ?_, above⟩
      have first : d.cls ≤ c.cls := by
        cases l₁ with
        | nil => exact Nat.le_of_eq (congrArg Claim.cls (List.cons.inj parts).1)
        | cons x xs => exact below d (by rw [(List.cons.inj parts).1]; simp)
      rintro x mem
      rcases List.mem_cons.mp mem with rfl | mem
      · exact Nat.le_trans up first
      · exact below x mem
    · rw [show laterOf (some b) d = some b from if_neg up] at chosen
      obtain ⟨l₁, l₂, parts, below, above⟩ := ih b c chosen
      cases l₁ with
      | nil =>
        obtain ⟨rfl, rfl⟩ := List.cons.inj parts
        refine ⟨[], d :: ds, rfl, by simp, ?_⟩
        rintro x mem
        rcases List.mem_cons.mp mem with rfl | mem
        · exact Nat.lt_of_not_le up
        · exact above x mem
      | cons y ys =>
        obtain ⟨rfl, rfl⟩ := List.cons.inj parts
        have first : b.cls ≤ c.cls := below b (by simp)
        refine ⟨b :: d :: ys, l₂, rfl, ?_, above⟩
        rintro x mem
        rcases List.mem_cons.mp mem with rfl | mem
        · exact first
        rcases List.mem_cons.mp mem with rfl | mem
        · exact Nat.le_trans (Nat.le_of_lt (Nat.lt_of_not_le up)) first
        · exact below x (by simp [mem])

/-- Where a filtered list splits, the list itself does. -/
theorem split_of_filter {α : Type} {p : α → Bool} {l l₁ l₂ : List α} {c : α} (h : l.filter p = l₁ ++ c :: l₂) :
    ∃ k₁ k₂, l = k₁ ++ c :: k₂ ∧ p c = true ∧ k₁.filter p = l₁ ∧ k₂.filter p = l₂ := by
  obtain ⟨m₁, m₂, rfl, first, second⟩ := List.filter_eq_append_iff.mp h
  obtain ⟨n₁, n₂, rfl, none, holds, rest⟩ := List.filter_eq_cons_iff.mp second
  refine ⟨m₁ ++ n₁, n₂, by simp, holds, ?_, rest⟩
  rw [List.filter_append, first, List.filter_eq_nil_iff.mpr none, List.append_nil]

theorem shedChoice_none_iff (m : List Nat) (budget : Nat) (cs : List Claim) :
    shedChoice m budget cs = none ↔ ∀ c ∈ cs, coversOver m budget c = false := by
  refine ⟨shedChoice_none, fun clear => ?_⟩
  have empty : cs.filter (coversOver m budget) = [] :=
    List.filter_eq_nil_iff.mpr fun c mem => by rw [clear c mem]; exact Bool.false_ne_true
  rw [shedChoice_eq, empty]
  rfl

/-- R75: the entry removed, by its class and its place in the list. -/
theorem shedChoice_some {m : List Nat} {budget : Nat} {cs : List Claim} {c : Claim}
    (h : shedChoice m budget cs = some c) :
    ∃ l₁ l₂, cs = l₁ ++ c :: l₂ ∧ coversOver m budget c = true ∧
      (∀ d ∈ l₁, coversOver m budget d = true → d.cls ≤ c.cls) ∧
      ∀ d ∈ l₂, coversOver m budget d = true → d.cls < c.cls := by
  rw [shedChoice_eq] at h
  cases crowded : cs.filter (coversOver m budget) with
  | nil =>
    rw [crowded] at h
    cases h
  | cons b bs =>
    rw [crowded] at h
    obtain ⟨l₁, l₂, parts, below, above⟩ := foldl_laterOf bs b c h
    obtain ⟨k₁, k₂, split, holds, first, second⟩ := split_of_filter (crowded.trans parts)
    refine ⟨k₁, k₂, split, holds, fun d mem hits => below d ?_, fun d mem hits => above d ?_⟩
    · rw [← first]
      exact List.mem_filter.mpr ⟨mem, hits⟩
    · rw [← second]
      exact List.mem_filter.mpr ⟨mem, hits⟩

/-- R75: the entries left are those of no pair removed. -/
theorem mem_shedLoop_claims (budget : Nat) (d : Claim) : ∀ (n : Nat) (r : Replica),
    d ∈ (shedLoop budget n r).1.claims ↔
      d ∈ r.claims ∧ ∀ c ∈ (shedLoop budget n r).2, Claim.isFor c.station c.channel d = false := by
  intro n
  induction n with
  | zero => simp [shedLoop]
  | succ n ih =>
    intro r
    unfold shedLoop
    cases shedChoice r.slotMap budget r.claims with
    | none => simp
    | some c =>
      dsimp only
      rw [ih, Replica.removeWhere_claims, List.mem_filter, List.forall_mem_cons, and_assoc]
      simp

theorem isFor_iff (st : Nat) (ch : Num4) (c : Claim) : Claim.isFor st ch c = true ↔ c.station = st ∧ c.channel = ch := by
  simp [Claim.isFor]

theorem claimOf_eq_none_iff (cs : List Claim) (st : Nat) (ch : Num4) :
    claimOf cs st ch = none ↔ ∀ c ∈ cs, ¬ (c.station = st ∧ c.channel = ch) := by
  simp only [claimOf, List.find?_eq_none, isFor_iff]

/-- R76: the own channels that a raised level sheds are those that lose their entry. -/
theorem mem_shed_iff (own budget n : Nat) (r : Replica) (ch : Num4) :
    ch ∈ ownChannels own (fun _ => true) (shedLoop budget n r).2 ↔
      claimOf r.claims own ch ≠ none ∧ claimOf (shedLoop budget n r).1.claims own ch = none := by
  obtain ⟨-, -, -, taken, -⟩ := shedLoop_spec budget n r
  simp only [ownChannels, List.mem_map, List.mem_filter, Bool.true_and, beq_iff_eq]
  rw [ne_eq, claimOf_eq_none_iff, claimOf_eq_none_iff]
  constructor
  · rintro ⟨c, ⟨removed, rfl⟩, rfl⟩
    refine ⟨fun absent => absent c (taken c removed) ⟨rfl, rfl⟩, fun d left hit => ?_⟩
    have kept := ((mem_shedLoop_claims budget d n r).mp left).2 c removed
    rw [(isFor_iff _ _ _).mpr hit] at kept
    cases kept
  · rintro ⟨held, gone⟩
    push Not at held
    obtain ⟨d, mem, hit⟩ := held
    have removed : ¬ ∀ c ∈ (shedLoop budget n r).2, Claim.isFor c.station c.channel d = false :=
      fun kept => gone d ((mem_shedLoop_claims budget d n r).mpr ⟨mem, kept⟩) hit
    push Not at removed
    obtain ⟨c, listed, same⟩ := removed
    obtain ⟨station, channel⟩ := (isFor_iff _ _ _).mp (Bool.eq_true_of_not_eq_false same)
    exact ⟨c, ⟨listed, station.symm.trans hit.1⟩, channel.symm.trans hit.2⟩

theorem shed_eq (c : Channel) :
    c.shed =
      if c.state = .unused then c
      else if c.state = .faulted then { c with owed := false }
      else { c with state := .waiting, owed := true } := by
  unfold Channel.shed
  cases c.state <;> rfl

theorem relief_eq (c : Channel) :
    c.relief = if c.state = .dimmed ∨ c.state = .waiting then { c with state := .seeking, owed := true } else c := by
  unfold Channel.relief
  cases c.state <;> rfl

theorem shed_shed (c : Channel) : c.shed.shed = c.shed := by
  rw [shed_eq c]
  by_cases unused : c.state = .unused
  · simp [shed_eq, unused]
  · by_cases faulted : c.state = .faulted
    · simp [shed_eq, faulted]
    · simp [shed_eq, unused, faulted]

/-- R76, R145: the channels handed over as shed. -/
theorem handSheds_get (chs : List Num4) (n : Num4) : ∀ s : State,
    (handSheds chs s).chans.get n = if n ∈ chs then (s.chans.get n).shed else s.chans.get n := by
  induction chs with
  | nil => simp [handSheds]
  | cons m ms ih =>
    intro s
    have next := ih (s.handShed m)
    rw [State.handShed, Four.get_set] at next
    refine Eq.trans next ?_
    by_cases same : n = m
    · subst same
      by_cases again : n ∈ ms
      · simp [again, shed_shed]
      · simp [again]
    · simp [same]

/-- R74, R75: the replica after a raised level. -/
theorem shedTo_raised {s : State} {l : Num4} (raised : s.engine.replica.shed.val < l.val) :
    s.shedTo l =
      (shedLoop (effectiveBudget s.cfg.budget l) s.engine.replica.claims.length { s.engine.replica with shed := l }).1 := by
  rw [State.shedTo, shedReplica, if_pos raised]

/-- R76: the own channels shed by a raised level. -/
theorem mem_shedOwn {s : State} {l : Num4} (raised : s.engine.replica.shed.val < l.val) (n : Num4) :
    n ∈ s.shedOwn l ↔
      claimOf s.engine.replica.claims s.own n ≠ none ∧ claimOf (s.shedTo l).claims s.own n = none := by
  rw [shedTo_raised raised, State.shedOwn, shedReplica, if_pos raised]
  exact mem_shed_iff s.own _ _ { s.engine.replica with shed := l } n

/-- R76, R77, R145: a channel after a SHED record. -/
theorem applyShedRecord_get (s : State) (e : Byte) (l : Num4) (n : Num4) :
    (s.applyShedRecord e l).chans.get n =
      let y := if n ∈ s.shedOwn l then (s.chans.get n).shed else s.chans.get n
      if givesRelief s.engine.replica (s.shedTo l) = true then y.relief else y := by
  have handed := handSheds_get (s.shedOwn l) n (s.recorded e (s.shedTo l) (s.shedOwn l))
  rw [recorded_chans] at handed
  rw [applyShedRecord_eq, commit_chans]
  split
  · rw [Four.get_map, handed]
  · exact handed

/-- R75: an entry covers a slot above the budget. -/
theorem coversOver_bounds (m : List Nat) (budget : Nat) (c : Claim) :
    coversOver m budget c = true ↔ ∃ k < 128, c.start ≤ k ∧ k < c.start + c.len ∧ budget < occupancy m k := by
  rw [coversOver_iff]
  simp only [Claim.covers_iff, and_assoc, Config.slots]

/-- Settles O35. -/
theorem shedRaised : Obligations.ShedRaised := by
  refine ⟨?_, fun budget n r => ⟨rfl, fun none => ?_, fun c chosen => ?_⟩, fun m budget cs => ⟨?_, fun c chosen => ?_⟩⟩
  · intro s r rest e level head run shed near raised agrees before due budget
    have exec_eq : exec .applyShed s = .next (s.applyShedRecord e level).dropHead := by
      rw [exec_applyShed head run shed, applyStamped_near _ near]
    have loop : s.shedTo level = (shedLoop budget before.claims.length { before with shed := level }).1 :=
      shedTo_raised raised
    obtain ⟨follows, within, list, -, roster, level_eq, cursor, count⟩ :=
      shedLoop_spec budget before.claims.length { before with shed := level }
    have due_eq : s.changePeriod e = due := changePeriod_eq s e
    have relief := givesRelief_iff (before := before) (after := s.shedTo level)
      (by rw [loop, level_eq]; exact Nat.le_of_lt raised)
    have engine : (s.applyShedRecord e level).dropHead.engine = s.engine.recount (s.shedTo level) := by
      rw [State.dropHead_engine, applyShedRecord_eq, commit_engine, handSheds_engine, recorded_engine]
    have pending : (s.applyShedRecord e level).dropHead.out =
        (s.recorded e (s.shedTo level) (s.shedOwn level)).out := by
      rw [State.dropHead_out, applyShedRecord_eq, commit_out (handSheds_out _)]
    refine ⟨_, exec_eq, ?_⟩
    rw [engine, pending, recount_replica, loop]
    refine ⟨by rw [count], level_eq, congrArg (· + 1) count, rfl, ?_, ⟨follows agrees, within agrees (Nat.le_refl _)⟩, list,
      roster, cursor, rfl, ?_, ?_, fun n lost used => ?_, fun z mem => ?_, fun z mem => ?_, fun n => ?_⟩
    · rw [← loop]
      exact recorded_out s e _ _
    · exact congrArg
        (fun u : State => { u with engine := s.engine, line := s.line, out := s.out, chans := s.chans })
        (commit_eq_blocks (handSheds_handsOff _) s e (s.shedTo level) (s.shedOwn level))
    · exact commit_dropHead_line (handSheds_line _) head e (s.shedTo level) (s.shedOwn level)
    · have own := (mem_shedOwn raised n).mpr (loop ▸ lost)
      have entered := recorded_pending_mem (e := e) (r := s.shedTo level) own used
      rw [((mem_shedOwn raised n).mp own).2, due_eq, loop] at entered
      exact entered
    · rw [← loop] at mem
      rcases mem_recorded_pending mem with old | ⟨touched, used, period, placed⟩
      · exact .inl old
      · have lost := (mem_shedOwn raised _).mp touched
        rw [lost.2] at placed
        exact .inr ⟨period.trans due_eq, placed, used, loop ▸ lost⟩
    · rw [← loop]
      rcases recorded_pending_old (r := s.shedTo level) (touched := s.shedOwn level) (e := e) mem with
        kept | ⟨period, used, touched⟩
      · exact .inl kept
      · exact .inr ⟨period.trans due_eq, used, (mem_shedOwn raised _).mp touched⟩
    · have get := applyShedRecord_get s e level n
      rw [← loop]
      refine ⟨if n ∈ s.shedOwn level then (s.chans.get n).shed else s.chans.get n, fun lost => ?_, fun kept => ?_,
        fun fell => ?_, fun stands => ?_⟩
      · rw [if_pos ((mem_shedOwn raised n).mpr lost)]
        exact shed_eq _
      · exact if_neg fun touched => kept ((mem_shedOwn raised n).mp touched)
      · rw [← relief_eq, State.dropHead_chans, get, if_pos (relief.mpr fell)]
      · rw [State.dropHead_chans, get, if_neg (fun gives => stands (relief.mp gives))]
  · rw [shedLoop, none]
  · refine ⟨?_, ?_, ⟨rfl, rfl, rfl, rfl⟩, fun agrees => agrees.removeWhere _⟩
    · rw [shedLoop, chosen]
    · rw [Replica.removeWhere_claims]
      refine List.filter_congr fun d _ => ?_
      rw [Claim.isFor, Bool.not_and]
      rfl
  · rw [shedChoice_none_iff]
    refine forall₂_congr fun c _ => ?_
    rw [← Bool.not_eq_true]
    exact not_congr (coversOver_bounds m budget c)
  · obtain ⟨l₁, l₂, parts, holds, below, above⟩ := shedChoice_some chosen
    exact ⟨l₁, l₂, parts, (coversOver_bounds _ _ _).mp holds, fun d mem hit => below d mem ((coversOver_bounds _ _ _).mpr hit),
      fun d mem hit => above d mem ((coversOver_bounds _ _ _).mpr hit)⟩

end Sys2Proof.Machine

/-! The dump build and its end (R83 to R88). -/

namespace Sys2Proof.Machine

/-! ## O37: the parts of a dump -/

/-- R83: one Roster entry of a dump. -/
theorem addMember_eq (b : DumpBuild) (p : Pair) :
    b.addMember p =
      if 1 ≤ p.station.toNat ∧ p.station.toNat ≤ 30 ∧
          (∀ m, b.roster.getLast? = some m → m.station < p.station.toNat) ∧ b.roster.length < 30 then
        { b with roster := b.roster ++ [{ station := p.station.toNat, incarnation := p.incarnation }] }
      else { b with spoiled := true } := by
  unfold DumpBuild.addMember
  dsimp only [Config.rosterLimit]
  rw [← ite_not]
  refine if_congr ?_ rfl rfl
  cases last : b.roster.getLast? with
  | none => simp; omega
  | some m => simp; omega

theorem addMember_order (b : DumpBuild) (p : Pair) :
    (b.addMember p).source = b.source ∧ (b.addMember p).phase = b.phase := by
  rw [addMember_eq]
  split <;> exact ⟨rfl, rfl⟩

/-- R84: the build once a claims part has begun. -/
def DumpBuild.claiming (b : DumpBuild) : DumpBuild :=
  { b with phase := .claims, spoiled := b.spoiled || decide (b.phase = BuildPhase.roster) }

theorem claiming_of_claims {b : DumpBuild} (claims : b.phase = .claims) : b.claiming = b := by
  cases b
  subst claims
  simp [DumpBuild.claiming]

theorem addPart_roster {guard budget : Nat} {b : DumpBuild} (roster : b.phase = .roster) (es : List Pair) :
    b.addPart guard budget b.source (.roster es) = es.foldl DumpBuild.addMember b := by
  simp only [DumpBuild.addPart, ne_eq, not_true_eq_false, if_false, roster]

theorem addPart_claims (guard budget : Nat) (b : DumpBuild) (st : Nat) (es : List PlaceEntry) :
    b.addPart guard budget b.source (.claims st es) = es.foldl (DumpBuild.addClaim guard budget st) b.claiming := by
  cases phase : b.phase with
  | claims => simp only [DumpBuild.addPart, ne_eq, not_true_eq_false, if_false, phase, claiming_of_claims phase]
  | roster => simp [DumpBuild.addPart, DumpBuild.claiming, phase]

/-- R85: when a claim of a dump is added. -/
def DumpBuild.Fits (guard budget st : Nat) (p : PlaceEntry) (b : DumpBuild) : Prop :=
  isMember b.roster st = true ∧ claimOf b.claims st p.channel = none ∧ guard ≤ p.start.toNat ∧
    1 ≤ p.len.toNat ∧ p.len.toNat ≤ 128 - 2 * guard ∧ p.start.toNat + p.len.toNat ≤ 128 - guard ∧
    (∀ k, p.start.toNat ≤ k → k < p.start.toNat + p.len.toNat →
      Machine.occupancy b.occupancy k + p.units.toNat ≤ effectiveBudget budget b.shed) ∧ b.claims.length < 120

theorem buildExceeds_iff (occ : List Nat) (budget : Nat) (c : Claim) :
    buildExceeds occ budget c = true ↔
      ¬ ∀ k, c.start ≤ k → k < c.start + c.len → occupancy occ k + c.units ≤ budget := by
  simp only [buildExceeds, List.any_eq_true, List.mem_range, decide_eq_true_iff]
  constructor
  · rintro ⟨i, bound, exceeds⟩ within
    exact absurd (within (c.start + i) (by omega) (by omega)) (Nat.not_le.mpr exceeds)
  · intro exceeds
    push Not at exceeds
    obtain ⟨k, lo, hi, exceeds⟩ := exceeds
    exact ⟨k - c.start, by omega, by rw [Nat.add_sub_cancel' lo]; exact exceeds⟩

/-- R85: one claim entry of a dump. -/
theorem addClaim_fits {guard budget st : Nat} {b : DumpBuild} {p : PlaceEntry} (fits : b.Fits guard budget st p) :
    b.addClaim guard budget st p =
      { b with
        received := b.received + 1
        claims := b.claims ++ [p.claim st]
        occupancy := addOver b.occupancy p.start.toNat p.len.toNat p.units.toNat } := by
  obtain ⟨member, single, lo, positive, short, hi, within, room⟩ := fits
  have below : buildExceeds b.occupancy (effectiveBudget budget b.shed) (p.claim st) = false := by
    rw [Bool.eq_false_iff, ne_eq, buildExceeds_iff, not_not]
    exact within
  have slots : Config.slots = 128 := rfl
  have area : ¬ ((p.claim st).start < guard ∨ (p.claim st).len = 0 ∨ Config.slots - 2 * guard < (p.claim st).len ∨
      Config.slots - guard < (p.claim st).start + (p.claim st).len) := by
    simp only [PlaceEntry.claim]
    omega
  have below120 : ¬ Config.claimLimit ≤ b.claims.length := Nat.not_le.mpr room
  unfold DumpBuild.addClaim
  dsimp only
  refine if_neg ?_
  rw [member, single, below, decide_eq_false area, decide_eq_false below120]
  decide

theorem addClaim_spoils {guard budget st : Nat} {b : DumpBuild} {p : PlaceEntry} (bad : ¬ b.Fits guard budget st p) :
    b.addClaim guard budget st p = { b with received := b.received + 1, spoiled := true } := by
  have slots : Config.slots = 128 := rfl
  have limit : Config.claimLimit = 120 := rfl
  unfold DumpBuild.addClaim
  dsimp only
  refine if_pos ?_
  by_contra sound
  simp only [Bool.or_eq_true, Bool.not_eq_true', decide_eq_true_iff, not_or, buildExceeds_iff, not_not,
    Bool.not_eq_false, Option.not_isSome_iff_eq_none] at sound
  obtain ⟨⟨⟨⟨member, single⟩, area⟩, within⟩, room⟩ := sound
  simp only [PlaceEntry.claim] at area within
  exact bad ⟨member, single, by omega, by omega, by omega, by omega, within, by omega⟩

theorem addClaim_order (guard budget st : Nat) (b : DumpBuild) (p : PlaceEntry) :
    (b.addClaim guard budget st p).source = b.source ∧ (b.addClaim guard budget st p).phase = b.phase := by
  by_cases fits : b.Fits guard budget st p
  · rw [addClaim_fits fits]
    exact ⟨rfl, rfl⟩
  · rw [addClaim_spoils fits]
    exact ⟨rfl, rfl⟩

/-- Settles O37. -/
theorem dumpPartsAdded : Obligations.DumpPartsAdded := by
  intro guard budget source b
  refine ⟨fun other p => if_pos other, fun c => ?_, fun es claims => ?_, fun p roster => ?_, fun roster => ?_, fun st => ?_,
    fun st p => ?_⟩
  · cases phase : b.phase <;> simp [DumpBuild.addPart, phase]
  · simp [DumpBuild.addPart, claims]
  · rw [addPart_roster roster]
    exact addMember_eq b p
  · refine ⟨addPart_roster roster [], fun p ps => ?_⟩
    obtain ⟨source_eq, phase⟩ := addMember_order b p
    have rest := addPart_roster (guard := guard) (budget := budget) (phase.trans roster) ps
    rw [source_eq] at rest
    rw [addPart_roster roster, addPart_roster roster]
    exact rest.symm
  · refine ⟨addPart_claims guard budget b st [], fun p ps => ?_⟩
    obtain ⟨source_eq, phase⟩ := addClaim_order guard budget st b.claiming p
    have rest := addPart_claims guard budget (b.claiming.addClaim guard budget st p) st ps
    rw [source_eq, claiming_of_claims phase] at rest
    rw [addPart_claims, addPart_claims]
    exact rest.symm
  · intro good b₀
    rw [addPart_claims]
    exact ⟨fun fits => addClaim_fits (b := b.claiming) fits, fun bad => addClaim_spoils (b := b.claiming) bad⟩

/-! ## O38: the part at the head of the queue -/

theorem exec_applyDumpPart {s : State} {r : Record} {rest : List Record} {p : DumpPart}
    (head : AtHead s r rest) (receiving : s.ctl.station = .dumpReceive) (part : r.payload = .dumpPart p) :
    exec .applyDumpPart s = .next (s.applyDumpPartRecord r.source r.lock p).dropHead := by
  have taken : s.useHead = some r := useHead_of_atHead head (by rw [receiving]; rfl) (by rw [part, receiving]; rfl)
  obtain ⟨source, lock, stamp, boundary, payload⟩ := r
  subst part
  change execApplyDumpPart s = _
  simp only [execApplyDumpPart, taken]

theorem applyDumpPartRecord_eq {s : State} {b₀ : DumpBuild} (build : s.engine.build = some b₀) (source : Nat) (lock : Bool)
    (p : DumpPart) :
    s.applyDumpPartRecord source lock p =
      let b := b₀.addPart s.cfg.guard s.cfg.budget source p
      if source = b₀.source ∧ lock = false then if b.complete s.own then s.installDump b else s.failDump
      else { s with engine := { s.engine with build := some b } } := by
  rw [State.applyDumpPartRecord, build]

/-- R86: a complete build. -/
theorem complete_iff (own : Nat) (b : DumpBuild) :
    b.complete own = true ↔
      b.spoiled = false ∧ b.roster.length = b.rosterCount ∧ b.received = b.claimCount ∧ b.cursor ≠ none ∧
        isMember b.roster own = true := by
  simp [DumpBuild.complete, Option.isSome_iff_ne_none, and_assoc]

/-- R140: the cursor installed from a dump. -/
theorem install_eq (c : Cursor) :
    let bad := c.valid = false ∨ c.last.toNat < c.first.toNat ∨ 119 < c.last.toNat ∨ c.next.toNat < c.first.toNat ∨
      c.last.toNat + 1 < c.next.toNat
    (bad → c.install.valid = false) ∧
      (¬ bad → c.install = { c with complete := c.complete || decide (c.next.toNat = c.last.toNat + 1) }) := by
  intro bad
  refine ⟨fun isBad => ?_, fun sound => ?_⟩
  · rw [Cursor.install, if_neg]
    rintro ⟨valid, order, range, lo, hi⟩
    rcases isBad with invalid | isBad
    · rw [valid] at invalid
      cases invalid
    · omega
  · simp only [bad, not_or, Bool.not_eq_false, Nat.not_lt] at sound
    obtain ⟨valid, order, range, lo, hi⟩ := sound
    rw [Cursor.install, if_pos ⟨valid, order, range, lo, hi⟩]
    rfl

theorem mem_ownChannels (own : Nat) (cs : List Claim) (n : Num4) :
    n ∈ ownChannels own (fun _ => true) cs ↔ claimOf cs own n ≠ none := by
  rw [ne_eq, claimOf_eq_none_iff]
  push Not
  simp [ownChannels, and_assoc]

/-- R87, R117: the node once a complete dump has been installed. -/
theorem installDump_fields (s : State) (b : DumpBuild) :
    (s.installDump b).engine =
        { s.engine with
          replica := b.replica, heldCheck := stateCheck b.replica, dumpOwed := false, build := none, witnesses := []
          mismatches := 0 } ∧
      (s.installDump b).ctl =
        { s.ctl with
          station := .run, joinWait := 0, ownIncarnation := incarnationIn s.own b.roster
          presence := s.own * 7 % s.cfg.presence + 1, silence := freshSilence s.own b.roster } ∧
      (∀ n, (s.installDump b).chans.get n = (s.chans.get n).resolve (claimOf b.claims s.own n).isSome) ∧
      (s.installDump b).out = { s.out with pending := (s.installDump b).out.pending } ∧
      (s.installDump b).line = { s.line with slots := { s.line.slots with joinFoundHolds := none } } :=
  ⟨rfl, rfl, fun _ => Four.get_tabulate _ _, rfl, rfl⟩

/-- Settles O38. -/
theorem dumpPartApplied : Obligations.DumpPartApplied := by
  intro s r rest p b₀ head receiving part build b complete
  rw [exec_applyDumpPart head receiving part, applyDumpPartRecord_eq build]
  refine ⟨fun open_ => ?_, fun source closes isComplete => ?_, fun source closes broken => ?_⟩
  · dsimp only
    rw [if_neg open_]
    exact congrArg Host.Outcome.next (dropHead_popped head.1)
  · dsimp only
    rw [if_pos ⟨source, closes⟩, if_pos ((complete_iff s.own b).mpr isComplete)]
    obtain ⟨engine, ctl, chans, out, line⟩ := installDump_fields s b
    refine ⟨_, rfl, ?_⟩
    rw [State.dropHead_engine, State.dropHead_ctl, State.dropHead_out, engine, ctl]
    refine ⟨rfl, rfl, rfl, rfl, rfl, rfl, rfl, fun c cursor => ?_, rfl, rfl, rfl, rfl, fun m own => ?_, rfl, chans,
      ⟨out, fun n c held used => ?_, fun x mem => ?_, fun x mem => ?_⟩, ?_, rfl, rfl⟩
    · have installed : b.replica.cursor = c.install := by simp only [DumpBuild.replica, cursor]
      dsimp only
      rw [installed]
      exact install_eq c
    · simp only [incarnationIn, own]
    · have added := addPendings_mem (s := s.withReplica b.replica) (e := s.timer.period + 1)
        ((mem_ownChannels s.own b.claims n).mpr (by rw [held]; exact Option.some_ne_none c)) used
      have placed : claimOf (s.withReplica b.replica).engine.replica.claims (s.withReplica b.replica).own n = some c := held
      rw [placed] at added
      exact added
    · rcases mem_addPendings (s := s.withReplica b.replica) mem with old | ⟨touched, used, period, -⟩
      · exact .inl old
      · exact .inr ⟨period, used, (mem_ownChannels s.own b.claims _).mp touched⟩
    · rcases addPendings_old (s := s.withReplica b.replica) (e := s.timer.period + 1)
        (chs := ownChannels s.own (fun _ => true) b.claims) mem with kept | ⟨period, used, touched⟩
      · exact .inl kept
      · exact .inr ⟨period, used, (mem_ownChannels s.own b.claims _).mp touched⟩
    · rw [dropHead_line, line]
      simp only [head.1]
      rfl
  · dsimp only
    rw [if_pos ⟨source, closes⟩, if_neg (fun is => broken ((complete_iff s.own b).mp is))]
    rfl

end Sys2Proof.Machine

/-! The placement search and the PLACE build (R16 to R20, R94, R95). -/

namespace Sys2Proof.Machine

/-! ## O24: the search -/

/-- R16: the channel's own draw over its current entry. -/
def ownDraw (units : Nat) (current : Option Placement) (k : Nat) : Nat :=
  match current with
  | some p => if p.start ≤ k ∧ k < p.start + p.len then units else 0
  | none => 0

/-- R17: Fit, judged on the counts less the own draw. -/
theorem fits_searchMap_iff (m : List Nat) (budget guard units : Nat) (current : Option Placement) (s l : Nat) :
    fits (searchMap m units current) budget units guard s l = true ↔
      guard ≤ s ∧ s + l ≤ 128 - guard ∧
        ∀ k, s ≤ k → k < s + l → occupancy m k - ownDraw units current k + units ≤ budget := by
  have counts : ∀ k, occupancy (searchMap m units current) k = occupancy m k - ownDraw units current k :=
    fun k => occupancy_searchMap m units k current
  simp only [fits_iff, counts, Config.slots]

/-- Settles O24, by the laws of the search at each length. -/
theorem placementSearch_correct : Obligations.PlacementSearch := by
  intro m budget guard units wanted current own fit
  have fit_iff : ∀ s l, fits (searchMap m units current) budget units guard s l = true ↔ fit s l :=
    fits_searchMap_iff m budget guard units current
  have misses_iff : ∀ s l, fits (searchMap m units current) budget units guard s l = false ↔ ¬ fit s l :=
    fun s l => by rw [← Bool.not_eq_true, fit_iff]
  obtain ⟨none_iff, some_spec⟩ := searchDown_spec (searchMap m units current) budget units guard current wanted
  refine ⟨fun k => occupancy_searchMap m units k current, fun s l k inside => ?_, ?_, fun s l found => ?_⟩
  · rw [occupancy_addOver _ _ _ inside]
    split <;> rfl
  · rw [placementSearch, none_iff]
    simp only [misses_iff]
  · obtain ⟨positive, short, placed, greatest⟩ := some_spec _ found
    obtain ⟨-, holds, keeps, lowest⟩ := (placeAt_spec positive).2 _ placed
    simp only [fit_iff, misses_iff] at holds keeps lowest greatest
    exact ⟨positive, short, holds, greatest, keeps, lowest⟩

/-! ## O23: one channel's share of a build -/

theorem channel_not_owed {budget guard own : Nat} {claims : List Claim} {b : PlaceBuild} {n : Num4}
    (settled : (b.chans.get n).owed = false) : b.channel budget guard own claims n = b := by
  simp [PlaceBuild.channel, settled]

theorem channel_dark {budget guard own : Nat} {claims : List Claim} {b : PlaceBuild} {n : Num4}
    (owed : (b.chans.get n).owed = true) (dark : (b.chans.get n).wanted = 0) :
    b.channel budget guard own claims n =
      match (claimOf claims own n).map Claim.placement with
      | some p => b.release n (b.chans.get n) (some p)
      | none => b.nothing n (b.chans.get n) .darkAndEmpty := by
  simp only [PlaceBuild.channel, owed, dark, Bool.not_true, Bool.false_eq_true, if_false, if_true]
  cases (claimOf claims own n).map Claim.placement <;> rfl

theorem channel_noRoom {budget guard own : Nat} {claims : List Claim} {b : PlaceBuild} {n : Num4}
    (owed : (b.chans.get n).owed = true) (wants : (b.chans.get n).wanted ≠ 0)
    (noRoom : placementSearch b.map budget guard (b.chans.get n).units (b.chans.get n).wanted
      ((claimOf claims own n).map Claim.placement) = none) :
    b.channel budget guard own claims n =
      match (claimOf claims own n).map Claim.placement with
      | some p => b.release n (b.chans.get n) (some p)
      | none => b.nothing n (b.chans.get n) .noRoom := by
  simp only [PlaceBuild.channel, owed, wants, noRoom, Bool.not_true, Bool.false_eq_true, if_false]
  cases (claimOf claims own n).map Claim.placement <;> rfl

theorem channel_found {budget guard own : Nat} {claims : List Claim} {b : PlaceBuild} {n : Num4} {p : Placement}
    (owed : (b.chans.get n).owed = true) (wants : (b.chans.get n).wanted ≠ 0)
    (found : placementSearch b.map budget guard (b.chans.get n).units (b.chans.get n).wanted
      ((claimOf claims own n).map Claim.placement) = some p) :
    b.channel budget guard own claims n =
      if some p = (claimOf claims own n).map Claim.placement then b.nothing n (b.chans.get n) (.stands p.len)
      else b.placing n (b.chans.get n) ((claimOf claims own n).map Claim.placement) p := by
  simp only [PlaceBuild.channel, owed, wants, found, Bool.not_true, Bool.false_eq_true, if_false]

/-- R20, R94: what a release leaves, whatever the free start it carries. -/
theorem release_fields (b : PlaceBuild) (n : Num4) (c : Channel) (current : Option Placement) :
    (∃ start,
      (b.release n c current).entries =
        b.entries ++
          [{ channel := n, cls := Fin.ofNat 4 c.cls, units := BitVec.ofNat 8 c.units, start := start, len := 0 }]) ∧
      (b.release n c current).map = searchMap b.map c.units current ∧
      (b.release n c current).chans = b.chans.set n { c with revised := false } := ⟨⟨_, rfl⟩, rfl, rfl⟩

/-- Settles O23: the channel not owed, dark, without room, and placed. -/
theorem placeContribution : Obligations.PlaceContribution := by
  intro budget guard own claims b n c current wanted found b' entry
  refine ⟨channel_not_owed, fun owed gives held => ?_, fun owed dark bare => ?_, fun owed wants noRoom bare => ?_,
    fun p owed wants placed => ⟨fun stands => ?_, fun moves => ?_⟩⟩
  · have released : b' = b.release n c current := by
      obtain ⟨p, placement⟩ := Option.ne_none_iff_exists'.mp held
      by_cases dark : wanted = 0
      · have eq := channel_dark (budget := budget) (guard := guard) (own := own) (claims := claims) owed dark
        rw [show (claimOf claims own n).map Claim.placement = some p from placement] at eq
        exact placement ▸ eq
      · have eq := channel_noRoom (own := own) (claims := claims) owed dark (gives.resolve_left dark)
        rw [show (claimOf claims own n).map Claim.placement = some p from placement] at eq
        exact placement ▸ eq
    rw [released]
    exact release_fields b n c current
  · have eq : b' = b.nothing n c .darkAndEmpty := by
      have eq := channel_dark (budget := budget) (guard := guard) (own := own) (claims := claims) owed dark
      rw [show (claimOf claims own n).map Claim.placement = none from bare] at eq
      exact eq
    rw [eq]
    exact ⟨rfl, rfl, rfl⟩
  · have eq : b' = b.nothing n c .noRoom := by
      have eq := channel_noRoom (own := own) (claims := claims) owed wants noRoom
      rw [show (claimOf claims own n).map Claim.placement = none from bare] at eq
      exact eq
    rw [eq]
    exact ⟨rfl, rfl, rfl⟩
  · have eq : b' = b.nothing n c (.stands p.len) := (channel_found owed wants placed).trans (if_pos stands.symm)
    rw [eq]
    exact ⟨rfl, rfl, rfl⟩
  · have eq : b' = b.placing n c current p := (channel_found owed wants placed).trans (if_neg (Ne.symm moves))
    rw [eq]
    exact ⟨rfl, rfl, rfl⟩

end Sys2Proof.Machine

/-! The message codec (R41 to R43, R184 to R186). -/

namespace Sys2Proof.Machine

/-! ## O60: the characters of a message -/

/-- R43: the check over a header and a payload. -/
def checkOf (a src dst len : Byte) (payload : List Byte) : Word16 := weightedSum (a :: src :: dst :: len :: payload)

/-- R41, R47: when four header characters and the rest read as a message. -/
theorem readMessage_some_iff {a src dst len : Byte} {rest : List Byte} {m : Message} :
    readMessage (a :: src :: dst :: len :: rest) = some m ↔
      ∃ payload p, payload.length = len.toNat ∧ len.toNat ≤ 18 ∧
        rest = payload ++ [hiByte (checkOf a src dst len payload), loByte (checkOf a src dst len payload)] ∧
        1 ≤ src.toNat ∧ src.toNat ≤ 30 ∧ readPayload ((a.toNat / 2) % 32) payload = some p ∧ p.destOk dst.toNat = true ∧
        m =
          { priority := Fin.ofNat 4 (a.toNat / 64), lock := a.toNat % 2 == 1, source := src.toNat, dest := dst.toNat
            payload := p } := by
  constructor
  · intro read
    unfold readMessage at read
    dsimp only at read
    split at read
    next length =>
      split at read
      next fields =>
        split at read
        next p payload =>
          split at read
          next dest =>
            obtain ⟨check, lo, hi⟩ := fields
            refine ⟨rest.take len.toNat, p, ?_, length.1, ?_, lo, hi, payload, dest, (Option.some.inj read).symm⟩
            · rw [List.length_take, length.2]
              omega
            · rw [checkOf, ← check, List.take_append_drop]
          · cases read
        · cases read
      · cases read
    · cases read
  · rintro ⟨payload, p, length, short, rfl, lo, hi, read, dest, rfl⟩
    unfold readMessage
    dsimp only
    rw [if_pos (by rw [List.length_append, length]; exact ⟨short, rfl⟩), ← length, List.take_left, List.drop_left,
      if_pos ⟨rfl, lo, hi⟩, read]
    exact if_pos dest

theorem formOk_parts (m : Message) :
    m.formOk = true ↔
      1 ≤ m.source ∧ m.source ≤ 30 ∧ m.payload.destOk m.dest = true ∧ m.payload.formOk = true := by
  simp [Message.formOk, and_assoc]

theorem kind_lt (p : Payload) : p.kind < 32 := by cases p <;> simp [Payload.kind]

theorem destOk_le {p : Payload} {dest : Nat} (h : p.destOk dest = true) : dest ≤ 30 := by
  cases p <;> simp [Payload.destOk, Payload.broadcast] at h <;> omega

/-- R42: the first header character and its three fields. -/
theorem headerByte_fields (priority : Num4) (kind : Nat) (lock : Bool) (bound : kind < 32) :
    let b : Byte := BitVec.ofNat 8 (priority.val * 64 + kind * 2 + boolByte lock)
    (b.toNat / 2) % 32 = kind ∧ Fin.ofNat 4 (b.toNat / 64) = priority ∧ (b.toNat % 2 == 1) = lock := by
  intro b
  have low := priority.isLt
  have value : b.toNat = priority.val * 64 + kind * 2 + boolByte lock := by
    have bit : boolByte lock ≤ 1 := by cases lock <;> decide
    simp only [b, BitVec.toNat_ofNat]
    omega
  rw [value]
  cases lock with
  | false =>
    simp only [boolByte, Bool.false_eq_true, if_false]
    refine ⟨by omega, Fin.ext ?_, ?_⟩
    · simp only [Fin.ofNat]
      omega
    · rw [beq_eq_false_iff_ne]
      omega
  | true =>
    simp only [boolByte, if_true]
    refine ⟨by omega, Fin.ext ?_, ?_⟩
    · simp only [Fin.ofNat]
      omega
    · rw [beq_iff_eq]
      omega

/-- R42: the first header character of its three fields. -/
theorem headerByte_of_fields (b : Byte) :
    BitVec.ofNat 8 ((Fin.ofNat 4 (b.toNat / 64)).val * 64 + (b.toNat / 2) % 32 * 2 + boolByte (b.toNat % 2 == 1)) = b := by
  have range := b.isLt
  have lockBit : boolByte (b.toNat % 2 == 1) = b.toNat % 2 := by
    rcases Nat.mod_two_eq_zero_or_one b.toNat with even | odd
    · simp [even, boolByte]
    · simp [odd, boolByte]
  apply BitVec.eq_of_toNat_eq
  rw [lockBit]
  simp only [Fin.ofNat, BitVec.toNat_ofNat]
  omega

theorem ofNat_toNat_of_lt {n : Nat} (h : n < 256) : (BitVec.ofNat 8 n).toNat = n := by
  rw [BitVec.toNat_ofNat]
  exact Nat.mod_eq_of_lt h

/-- R47: a message of no form error is read from its characters. -/
theorem readMessage_chars {m : Message} (h : m.formOk = true) : readMessage m.chars = some m := by
  obtain ⟨lo, hi, dest, form⟩ := (formOk_parts m).mp h
  have short : m.payload.bytes.length ≤ 18 := formOk_length form
  obtain ⟨kind, priority, lock⟩ := headerByte_fields m.priority m.payload.kind m.lock (kind_lt _)
  have source : (BitVec.ofNat 8 m.source).toNat = m.source := ofNat_toNat_of_lt (by omega)
  have destination : (BitVec.ofNat 8 m.dest).toNat = m.dest := ofNat_toNat_of_lt (by have := destOk_le dest; omega)
  have length : (BitVec.ofNat 8 m.payload.bytes.length).toNat = m.payload.bytes.length := ofNat_toNat_of_lt (by omega)
  refine readMessage_some_iff.mpr ⟨m.payload.bytes, m.payload, length.symm, by omega, rfl, by omega, by omega, ?_, ?_, ?_⟩
  · rw [kind]
    exact readPayload_bytes form
  · rw [destination]
    exact dest
  · rw [priority, lock, source, destination]

/-- R41 to R43: the characters that read as a message are those it has. -/
theorem chars_of_readMessage {cs : List Byte} {m : Message} (read : readMessage cs = some m) :
    m.formOk = true ∧ m.chars = cs := by
  match cs, read with
  | a :: src :: dst :: len :: rest, read =>
    obtain ⟨payload, p, length, short, rfl, lo, hi, readP, dest, rfl⟩ := readMessage_some_iff.mp read
    obtain ⟨form, kind, bytes⟩ := readPayload_some (by omega) readP
    refine ⟨(formOk_parts _).mpr ⟨lo, hi, dest, form⟩, ?_⟩
    have header : ({ priority := Fin.ofNat 4 (a.toNat / 64), lock := a.toNat % 2 == 1, source := src.toNat
                     dest := dst.toNat, payload := p } : Message).header = [a, src, dst, len] := by
      simp only [Message.header, kind, bytes, length, headerByte_of_fields, BitVec.ofNat_toNat, BitVec.setWidth_eq]
    simp only [Message.chars, header, bytes]
    rfl

/-- R47: a reception reads as its characters do, each with a recessive stop bit. -/
theorem reception_message (m : Reception) :
    ((∃ c ∈ m.chars, c.stopRecessive = false) → m.message = none) ∧
      ((∀ c ∈ m.chars, c.stopRecessive = true) → m.message = readMessage (m.chars.map (·.value))) := by
  refine ⟨fun ⟨c, mem, dominant⟩ => ?_, fun all => ?_⟩
  · refine if_neg fun all => ?_
    have recessive := List.all_eq_true.mp all c mem
    rw [dominant] at recessive
    cases recessive
  · exact if_pos (List.all_eq_true.mpr all)

/-- R43: the weighted sum, position by position. -/
theorem weightedFrom_eq (xs : List Byte) : ∀ p,
    weightedFrom p xs = ((List.range xs.length).map fun k => (p + k) * (xs.getD k 0).toNat).sum := by
  induction xs with
  | nil => intro p; rfl
  | cons x xs ih =>
    intro p
    rw [weightedFrom, ih, List.length_cons, List.range_succ_eq_map, List.map_cons, List.sum_cons, List.map_map]
    refine congrArg (p * x.toNat + ·) (congrArg List.sum (List.map_congr_left fun k _ => ?_))
    simp only [Function.comp, List.getD_cons_succ]
    rw [Nat.add_assoc, Nat.add_comm 1 k]

/-- R41 to R43: the characters of a message, written out. -/
theorem chars_eq (m : Message) :
    let body :=
      [BitVec.ofNat 8 (m.priority.val * 64 + m.payload.kind * 2 + if m.lock = true then 1 else 0),
        BitVec.ofNat 8 m.source, BitVec.ofNat 8 m.dest, BitVec.ofNat 8 m.payload.bytes.length] ++ m.payload.bytes
    let check := ((List.range body.length).map fun k => (k + 1) * (body.getD k 0).toNat).sum % 65536
    m.chars = body ++ [BitVec.ofNat 8 (check / 256), BitVec.ofNat 8 check] := by
  intro body check
  have sum : (weightedSum body).toNat = check := by
    rw [weightedSum, BitVec.toNat_ofNat, weightedFrom_eq]
    refine congrArg (· % 65536) (congrArg List.sum (List.map_congr_left fun k _ => ?_))
    rw [Nat.add_comm 1 k]
  show body ++ [BitVec.ofNat 8 ((weightedSum body).toNat / 256), BitVec.ofNat 8 (weightedSum body).toNat] = _
  rw [sum]

theorem entryByte_eq (p : PlaceEntry) : p.bytes = [BitVec.ofNat 8 (4 * p.channel.val + p.cls.val), p.units, p.start, p.len] := by
  rw [PlaceEntry.bytes, Nat.mul_comm]

theorem claimOk_iff (p : PlaceEntry) :
    p.claimOk = true ↔ p.cls.val ≤ 2 ∧ 1 ≤ p.units.toNat ∧ p.units.toNat ≤ 63 := by
  simp only [PlaceEntry.claimOk, Bool.and_eq_true, decide_eq_true_iff]
  omega

theorem placeOk_iff (p : PlaceEntry) :
    p.placeOk = true ↔ p.len = 0 ∨ (p.cls.val ≤ 2 ∧ 1 ≤ p.units.toNat ∧ p.units.toNat ≤ 63) := by
  rw [PlaceEntry.placeOk, Bool.or_eq_true, claimOk_iff, beq_iff_eq]
  refine or_congr_left ?_
  rw [← BitVec.toNat_inj]
  rfl

theorem levelValueOk_iff (op : LevelOp) (v : Nat) :
    levelValueOk op v = true ↔ v ≤ 128 ∧ (op = .stepUp ∨ op = .stepDown → 1 ≤ v) := by
  cases op <;> simp [levelValueOk, and_comm]

/-- Settles O60: reading and building, then the layouts. -/
theorem messageRoundTrip : Obligations.MessageRoundTrip := by
  refine ⟨fun m => readMessage_chars, fun cs m => chars_of_readMessage, reception_message, chars_eq, fun p => ?_,
    fun m => ?_⟩
  · have entries : ∀ es : List PlaceEntry, es.flatMap PlaceEntry.bytes =
        es.flatMap fun p => [BitVec.ofNat 8 (4 * p.channel.val + p.cls.val), p.units, p.start, p.len] :=
      fun es => congrArg (fun f => es.flatMap f) (funext entryByte_eq)
    cases p with
    | dumpPart part =>
      cases part with
      | roster es => rfl
      | cursor c =>
        cases valid : c.valid <;> cases complete : c.complete <;>
          simp [Payload.bytes, DumpPart.bytes, boolByte, valid, complete]
      | claims st es => simp only [Payload.bytes, DumpPart.bytes, entries, Nat.mul_comm st 8]
    | place e es => simp only [Payload.bytes, entries]
    | level op mask v => cases op <;> rfl
    | query w => cases w <;> rfl
    | report w b => cases w <;> rfl
    | _ => rfl
  · intro claim
    rw [formOk_parts]
    refine and_congr_right fun _ => and_congr_right fun _ => ?_
    obtain ⟨priority, lock, source, dest, payload⟩ := m
    dsimp only
    cases payload with
    | dumpPart part =>
      cases part with
      | claims st es =>
        simp [Payload.destOk, Payload.broadcast, Payload.formOk, DumpPart.formOk, PlaceEntry.formOk, claimOk_iff, and_assoc,
          claim]
      | _ => simp [Payload.destOk, Payload.broadcast, Payload.formOk, DumpPart.formOk]
    | place e es => simp [Payload.destOk, Payload.broadcast, Payload.formOk, placeOk_iff, and_assoc, claim]
    | level op mask v => simp [Payload.destOk, Payload.broadcast, Payload.formOk, levelValueOk_iff]
    | report w b => cases w <;> simp [Payload.destOk, Payload.formOk, and_assoc]
    | _ => simp [Payload.destOk, Payload.broadcast, Payload.formOk]

end Sys2Proof.Machine

/-! The image of the configuration memory (R174 to R178). -/

namespace Sys2Proof.Machine

/-! ## O6: the image -/

theorem forall_num4 (P : Nat → Prop) : (∀ n : Num4, P n.val) ↔ ∀ n < 4, P n :=
  ⟨fun all n bound => all ⟨n, bound⟩, fun all n => all n.val n.isLt⟩

theorem all_allFour_iff (p : Num4 → Bool) : allFour.all p = true ↔ ∀ n, p n = true := by
  rw [List.all_eq_true]
  exact ⟨fun all n => all n (mem_allFour n), fun all n _ => all n⟩

/-- R43, R176: two weighted sums of 16 bits. -/
theorem weightedSum_eq_wordOf (xs : List Byte) (hi lo : Byte) :
    weightedSum xs = wordOf hi lo ↔ weightedFrom 1 xs % 65536 = hi.toNat * 256 + lo.toNat := by
  have bound : (wordOf hi lo).toNat = hi.toNat * 256 + lo.toNat := by
    have := hi.isLt
    have := lo.isLt
    rw [wordOf, BitVec.toNat_ofNat]
    omega
  rw [← BitVec.toNat_inj, bound, weightedSum, BitVec.toNat_ofNat]

/-- R176: the signature and the check of an image. -/
theorem imageFrameOk_iff (image : List Byte) :
    imageFrameOk image = true ↔
      ((imageByte image 0).toNat = 0x5A ∧ (imageByte image 1).toNat = 0x4B) ∧
        ((List.range 62).map fun k => (k + 1) * (imageByte image k).toNat).sum % 65536 =
          (imageByte image 62).toNat * 256 + (imageByte image 63).toNat := by
  have sum : weightedFrom 1 (imageHead image 62) =
      ((List.range 62).map fun k => (k + 1) * (imageByte image k).toNat).sum := by
    rw [weightedFrom_eq, imageHead, List.length_map, List.length_range]
    refine congrArg List.sum (List.map_congr_left fun k mem => ?_)
    have bound : k < 62 := List.mem_range.mp mem
    rw [Nat.add_comm 1 k, List.getD_eq_getElem?_getD, List.getElem?_map, List.getElem?_range bound]
    rfl
  rw [imageFrameOk, Bool.and_eq_true, Bool.and_eq_true, beq_iff_eq, beq_iff_eq, beq_iff_eq, weightedSum_eq_wordOf, sum,
    ← BitVec.toNat_inj, ← BitVec.toNat_inj]
  rfl

/-- R177: the rate and slot codes that go together. -/
theorem validPair_iff (rate slot : Nat) :
    rate ≤ 2 ∧ slot ≤ 2 ∧ validPair rate slot = true ↔
      rate ≤ 2 ∧ slot ≤ 2 ∧ (rate, slot) ∈ [(0, 2), (1, 1), (1, 2), (2, 0), (2, 1), (2, 2)] := by
  refine and_congr_right fun r => and_congr_right fun s => ?_
  match rate, slot, r, s with
  | 0, 0, _, _ | 0, 1, _, _ | 0, 2, _, _ | 1, 0, _, _ | 1, 1, _, _ | 1, 2, _, _ | 2, 0, _, _ | 2, 1, _, _ | 2, 2, _, _ =>
    decide

/-- R176, R177: the line parameters of an image. -/
theorem imageParams_valid_iff (image : List Byte) :
    let b := fun k => (imageByte image k).toNat
    (imageParams image).valid = true ↔
      (b 2 ≤ 2 ∧ b 3 ≤ 2 ∧ b 4 ≤ 8 ∧ 1 ≤ b 5 * 256 + b 6 ∧ b 5 * 256 + b 6 ≤ 1023 ∧ 16 ≤ b 7) ∧
        (b 2, b 3) ∈ [(0, 2), (1, 1), (1, 2), (2, 0), (2, 1), (2, 2)] := by
  intro b
  have presence : b 7 ≤ 255 := Nat.le_of_lt_succ (imageByte image 7).isLt
  have pair := validPair_iff (b 2) (b 3)
  simp only [LineParams.valid, Bool.and_eq_true, decide_eq_true_eq]
  constructor
  · rintro ⟨⟨⟨⟨⟨⟨⟨rate, slot⟩, guard⟩, lo⟩, hi⟩, p⟩, -⟩, goes⟩
    exact ⟨⟨rate, slot, guard, lo, hi, p⟩, (pair.mp ⟨rate, slot, goes⟩).2.2⟩
  · rintro ⟨⟨rate, slot, guard, lo, hi, p⟩, goes⟩
    exact ⟨⟨⟨⟨⟨⟨⟨rate, slot⟩, guard⟩, lo⟩, hi⟩, p⟩, presence⟩, (pair.mpr ⟨rate, slot, goes⟩).2.2⟩

theorem imageValid_parts (image : List Byte) :
    imageValid image = true ↔
      imageFrameOk image = true ∧ (imageParams image).valid = true ∧ (∀ n, channelBlockOk image n = true) ∧
        (∀ n, keyBlockOk image n = true) ∧ sharedOk image = true := by
  simp only [imageValid, Bool.and_eq_true, all_allFour_iff, and_assoc]

/-- R175: within the image the byte beyond its end does not matter. -/
theorem imageByte_of_lt {image : List Byte} {k : Nat} (h : k < image.length) : image.getD k 0 = imageByte image k := by
  simp [imageByte, List.getD_eq_getElem?_getD, List.getElem?_eq_getElem h]

theorem channelBlockOk_iff (image : List Byte) (n : Num4) :
    channelBlockOk image n = true ↔
      (imageByte image (8 + 4 * n.val)).toNat ≤ 63 ∧ (imageByte image (9 + 4 * n.val)).toNat ≤ 2 ∧
        (imageByte image (10 + 4 * n.val)).toNat ≤ 128 := by
  simp only [channelBlockOk, Bool.and_eq_true, decide_eq_true_eq, and_assoc]

theorem keyBlockOk_iff (image : List Byte) (n : Num4) :
    keyBlockOk image n = true ↔
      (imageByte image (24 + 5 * n.val)).toNat ≤ 1 ∧ (imageByte image (25 + 5 * n.val)).toNat ≤ 30 ∧
        (imageByte image (26 + 5 * n.val)).toNat ≤ 15 ∧ 4 ≤ (imageByte image (27 + 5 * n.val)).toNat ∧
        (imageByte image (28 + 5 * n.val)).toNat ≤ 6 := by
  simp only [keyBlockOk, Bool.and_eq_true, decide_eq_true_eq, and_assoc]

theorem sharedOk_iff (image : List Byte) :
    sharedOk image = true ↔
      4 ≤ (imageByte image 44).toNat ∧ 1 ≤ (imageByte image 45).toNat ∧ (imageByte image 45).toNat ≤ 32 := by
  simp only [sharedOk, Bool.and_eq_true, decide_eq_true_eq, and_assoc]

/-- R175: one byte of the read, bit by bit. -/
theorem toNat_readByte (memory : List (Option Bool)) (k : Nat) :
    let bit := fun i => if memory[24 + 8 * k + i]? = some (some false) then 0 else 1
    (readByte memory k).toNat =
      128 * bit 0 + 64 * bit 1 + 32 * bit 2 + 16 * bit 3 + 8 * bit 4 + 4 * bit 5 + 2 * bit 6 + bit 7 := by
  intro bit
  have level : ∀ i, (cmisoLevel memory (commandCycles + 8 * k + i)).toNat = bit i := by
    intro i
    show (cmisoLevel memory (24 + 8 * k + i)).toNat = bit i
    simp only [cmisoLevel, List.getD_eq_getElem?_getD, bit]
    cases memory[24 + 8 * k + i]? with
    | none => rfl
    | some x =>
      cases x with
      | none => rfl
      | some high => cases high <;> rfl
  have small : ∀ i, bit i ≤ 1 := by
    intro i
    simp only [bit]
    split <;> decide
  have sum : (List.range 8).foldl (fun v i => 2 * v + (cmisoLevel memory (commandCycles + 8 * k + i)).toNat) 0 =
      128 * bit 0 + 64 * bit 1 + 32 * bit 2 + 16 * bit 3 + 8 * bit 4 + 4 * bit 5 + 2 * bit 6 + bit 7 := by
    simp only [level]
    rw [show List.range 8 = [0, 1, 2, 3, 4, 5, 6, 7] from rfl]
    simp only [List.foldl_cons, List.foldl_nil]
    ring
  rw [readByte, sum]
  refine ofNat_toNat_of_lt ?_
  have := small 0
  have := small 1
  have := small 2
  have := small 3
  have := small 4
  have := small 5
  have := small 6
  have := small 7
  omega

theorem exec_configurationReadComplete {s : State} {memory : List (Option Bool)} (loading : s.ctl.station = .loading)
    (reading : s.loader.phase = .reading) :
    exec (.configurationReadComplete memory) s =
      if imageValid (readImage memory) = true then .next (s.configure (readImage memory))
      else .next (State.halt { s with loader := { s.loader with pins := .atRest } } .config) := by
  show execConfigurationReadComplete memory s = _
  rw [execConfigurationReadComplete, if_pos (by simp [State.loaderReads, loading, reading])]

/-- Settles O6: the bytes of a valid image, then the read, then the halt. -/
theorem imageValidity : Obligations.ImageValidity := by
  refine ⟨fun image length => ?_, fun memory => ⟨readImage_length memory, fun k inside => ?_, fun silent => ?_⟩,
    fun s memory loading reading bad => ?_⟩
  · intro b
    have same : ∀ {k}, k < 64 → b k = (imageByte image k).toNat :=
      fun inside => congrArg BitVec.toNat (imageByte_of_lt (by omega))
    have frame : imageFrameOk image = true ↔ (b 0 = 0x5A ∧ b 1 = 0x4B) ∧
        ((List.range 62).map fun k => (k + 1) * b k).sum % 65536 = b 62 * 256 + b 63 := by
      have sum : ((List.range 62).map fun k => (k + 1) * b k).sum =
          ((List.range 62).map fun k => (k + 1) * (imageByte image k).toNat).sum :=
        congrArg List.sum (List.map_congr_left fun k mem => by
          rw [same (Nat.lt_trans (List.mem_range.mp mem) (by decide))])
      rw [imageFrameOk_iff, sum, same (k := 0) (by decide), same (k := 1) (by decide), same (k := 62) (by decide),
        same (k := 63) (by decide)]
    have params := imageParams_valid_iff image
    dsimp only at params
    rw [← same (k := 2) (by decide), ← same (k := 3) (by decide), ← same (k := 4) (by decide),
      ← same (k := 5) (by decide), ← same (k := 6) (by decide), ← same (k := 7) (by decide)] at params
    have channels : (∀ n, channelBlockOk image n = true) ↔
        ∀ n < 4, b (8 + 4 * n) ≤ 63 ∧ b (9 + 4 * n) ≤ 2 ∧ b (10 + 4 * n) ≤ 128 := by
      rw [← forall_num4 fun n => b (8 + 4 * n) ≤ 63 ∧ b (9 + 4 * n) ≤ 2 ∧ b (10 + 4 * n) ≤ 128]
      refine forall_congr' fun n => ?_
      rw [channelBlockOk_iff, same (by omega), same (by omega), same (by omega)]
    have keys : (∀ n, keyBlockOk image n = true) ↔
        ∀ n < 4, b (24 + 5 * n) ≤ 1 ∧ b (25 + 5 * n) ≤ 30 ∧ b (26 + 5 * n) ≤ 15 ∧ 4 ≤ b (27 + 5 * n) ∧
          b (28 + 5 * n) ≤ 6 := by
      rw [← forall_num4 fun n => b (24 + 5 * n) ≤ 1 ∧ b (25 + 5 * n) ≤ 30 ∧ b (26 + 5 * n) ≤ 15 ∧ 4 ≤ b (27 + 5 * n) ∧
        b (28 + 5 * n) ≤ 6]
      refine forall_congr' fun n => ?_
      rw [keyBlockOk_iff, same (by omega), same (by omega), same (by omega), same (by omega), same (by omega)]
    have shared : sharedOk image = true ↔ 4 ≤ b 44 ∧ 1 ≤ b 45 ∧ b 45 ≤ 32 := by
      rw [sharedOk_iff, same (k := 44) (by decide), same (k := 45) (by decide)]
    rw [imageValid_parts, frame, params, channels, keys, shared]
    constructor
    · rintro ⟨⟨signature, check⟩, ⟨ranges, codes⟩, blocks, keyBlocks, rest⟩
      exact ⟨signature, check, ranges, blocks, keyBlocks, rest, codes⟩
    · rintro ⟨signature, check, ranges, blocks, keyBlocks, rest, codes⟩
      exact ⟨⟨signature, check⟩, ⟨ranges, codes⟩, blocks, keyBlocks, rest⟩
  · have byte := imageByte_of_lt (image := readImage memory) (k := k) (by rw [readImage_length]; exact inside)
    rw [byte, imageByte_readImage inside]
    exact toNat_readByte memory k
  · rw [Bool.eq_false_iff]
    intro valid
    have signature := ((imageFrameOk_iff _).mp ((imageValid_parts _).mp valid).1).1.1
    rw [imageByte_readImage (by decide), readByte_undriven silent] at signature
    cases signature
  · have exec_eq := exec_configurationReadComplete (memory := memory) loading reading
    rw [if_neg (by rw [bad]; exact Bool.false_ne_true)] at exec_eq
    exact ⟨_, exec_eq, rfl, rfl, halt_sameConfiguration { s with loader := { s.loader with pins := .atRest } } .config, rfl,
      rfl, halt_faultN _ _, rfl, rfl, rfl, rfl, rfl⟩

/-! ## O7: a valid image -/

/-- R179: the line digest, byte by byte. -/
theorem lineDigest_eq (image : List Byte) :
    let b := fun k => (imageByte image k).toNat
    lineDigest image = BitVec.ofNat 16 (b 2 + 2 * b 3 + 3 * b 4 + 4 * b 5 + 5 * b 6 + 6 * b 7) := by
  intro b
  have sum : weightedFrom 1 ((List.range 6).map fun k => imageByte image (k + 2)) =
      b 2 + 2 * b 3 + 3 * b 4 + 4 * b 5 + 5 * b 6 + 6 * b 7 := by
    rw [show List.range 6 = [0, 1, 2, 3, 4, 5] from rfl]
    simp only [List.map_cons, List.map_nil, weightedFrom, Nat.reduceAdd, b]
    omega
  rw [lineDigest, weightedSum, sum]

/-- R150, R178: a channel record from the image, where something is placeable. -/
theorem fromImage_eq {a : Nat} (placeable : 0 < a) (units cls level : Nat) :
    Channel.fromImage a units cls level =
      let d := min level a
      let target := if units = 0 then 0 else d
      { units := units, cls := cls, defaultLevel := level, target := target
        lastLit := if units = 0 ∨ d = 0 then a else d
        state := if units = 0 then .unused else if 0 < target then .seeking else .dark
        owed := decide (0 < target), revised := decide (0 < target) } := by
  have lit : (units = 0 ∨ level = 0) ↔ (units = 0 ∨ min level a = 0) := by omega
  simp only [Channel.fromImage, lit]

theorem getLsbD_eq_decide (b : Byte) (i : Nat) : b.getLsbD i = decide (b.toNat / 2 ^ i % 2 = 1) := by
  rw [BitVec.getLsbD, Nat.testBit_eq_decide_div_mod_eq]

/-- Settles O7: block by block. -/
theorem validImageTaken : Obligations.ValidImageTaken := by
  intro s memory loading reading valid b a
  have exec_eq := exec_configurationReadComplete (memory := memory) loading reading
  rw [if_pos valid] at exec_eq
  have guard : b 4 ≤ 8 := ((imageParams_valid_iff _).mp ((imageValid_parts _).mp valid).2.1).1.2.2.1
  refine ⟨_, exec_eq, rfl, ⟨rfl, rfl, rfl, rfl⟩, ⟨rfl, rfl, rfl⟩, rfl, lineDigest_eq _, fun n => ?_,
    ⟨rfl, fun n => ?_⟩, ⟨rfl, rfl, fun n => ?_⟩, rfl, rfl, rfl, rfl, rfl, rfl⟩
  · have placeable : 0 < a := by omega
    refine (Four.get_tabulate _ n).trans ?_
    exact fromImage_eq placeable _ _ _
  · have record : (s.configure (readImage memory)).out.chan.get n =
        (s.out.chan.get n).configure (imageByte (readImage memory) (11 + 4 * n.val)) := Four.get_tabulate _ n
    rw [record]
    simp only [OutChannel.configure, getLsbD_eq_decide, Nat.pow_zero, Nat.pow_one, Nat.div_one, decide_eq_true_eq]
    exact ⟨rfl, rfl, rfl⟩
  · refine (Four.get_tabulate _ n).trans ?_
    have one : ∀ x : Byte, x = 1 ↔ x.toNat = 1 := fun x => by rw [← BitVec.toNat_inj]; rfl
    have enabled : ∀ x : Byte, (x == 1) = decide (x.toNat = 1) := fun x => by
      rw [Bool.eq_iff_iff, beq_iff_eq, decide_eq_true_eq, one]
    simp only [Key.fromImage, one, enabled]
    rfl

end Sys2Proof.Machine

/-! The end of an attempt that is not accepted (R45, R50, R51, R102, R103). -/

namespace Sys2Proof.Machine

/-! ## O25: loss and failure -/

theorem setCtl_ctl (t : TxSlots) (id : SlotId) : t.setCtl id (t.ctl id) = t := by
  cases id with
  | level k => exact congrArg (fun level => { t with level := level }) (Four.set_get_self t.level k)
  | _ => rfl

/-- R103: a failure below the sixteenth, before a follow-on is merged. -/
theorem failSlot_retry {s : State} {id : SlotId} (hold : Bool) (below : (s.line.slots.ctl id).attempts < 15) :
    s.failSlot id hold =
      { s with
        line :=
          { s.line with
            slots :=
              (s.line.slots.setCtl id
                { attempts := (s.line.slots.ctl id).attempts + 1
                  held :=
                    (s.line.slots.ctl id).held ||
                      (hold && !decide (id = .dump ∧ s.line.slots.dumpRun ≠ none)) }).mergeFollowOn id } } := by
  have retry : ¬ Config.attemptLimit ≤ (s.line.slots.ctl id).attempts + 1 := by
    show ¬ 16 ≤ _
    omega
  have inRun : (id == .dump && s.line.slots.dumpRun.isSome) = decide (id = .dump ∧ s.line.slots.dumpRun ≠ none) := by
    rw [Bool.eq_iff_iff]
    simp [Option.isSome_iff_ne_none]
  simp only [State.failSlot, if_neg retry, inRun]

theorem exec_arbitrationLoss {s : State} {a : Attempt} {char bit : Nat} (sending : s.line.attempt = some a)
    (early : char ≤ 2) (recessive : sendsRecessive a.message.chars char bit = true) :
    exec (.arbitrationLoss char bit) s = .next s.attemptLost := by
  show execArbitrationLoss char bit s = _
  rw [execArbitrationLoss, sending]
  dsimp only
  rw [if_pos recessive, if_neg (by omega)]

theorem exec_senderBreakOff (s : State) : exec .senderBreakOff s = .next (s.attemptFailed false) := rfl

/-- R50, R51: what a failed message leaves of the own signals, before the outcome of the own attempt. -/
def State.signalling (s : State) (m : Reception) : State := { s with line := { s.signalled m s.line with idle := false } }

theorem exec_messageFailed {s : State} {m : Reception} {othersError othersHold : Bool} (received : s.receives m = true)
    (pulled : (othersError || s.signalsError m || (othersHold || s.signalsHold m)) = true) :
    exec (.messageFailed m othersError othersHold) s =
      .next ((s.signalling m).attemptFailed (!(othersError || s.signalsError m))) := by
  have fails : s.fails m othersError othersHold = true := by
    rw [State.fails, received]
    exact pulled
  show execMessageFailed m othersError othersHold s = _
  rw [execMessageFailed, if_pos fails]
  exact congrArg (fun u : State => Host.Outcome.next (u.attemptFailed (!(othersError || s.signalsError m))))
    (countSignals_signalled s m)

theorem attemptLost_waiting {s : State} {a : Attempt} (sending : s.line.attempt = some a)
    (noRestart : s.line.restartPending = false) :
    s.attemptLost =
      { s with
        line := { s.line with attempt := none, idle := false, slots := s.line.slots.mergeFollowOn a.slot } } := by
  rw [State.attemptLost, sending]
  exact if_neg (by simp [noRestart])

/-- R95, R96, R103: the failure of an attempt, no restart waiting. -/
theorem attemptFailed_waiting {s : State} {a : Attempt} (sending : s.line.attempt = some a)
    (noRestart : s.line.restartPending = false) (hold : Bool) :
    s.attemptFailed hold = (s.ended.failSlot a.slot hold).settleSlots := by
  rw [State.attemptFailed, sending]
  exact if_neg (by simp [noRestart])

theorem attemptFailed_retry {s : State} {a : Attempt} (sending : s.line.attempt = some a)
    (noRestart : s.line.restartPending = false) (hold : Bool) (below : (s.line.slots.ctl a.slot).attempts < 15) :
    s.attemptFailed hold =
      { s with
        line :=
          { s.line with
            attempt := none, idle := false
            slots :=
              s.settled
                ((s.line.slots.setCtl a.slot
                  { attempts := (s.line.slots.ctl a.slot).attempts + 1
                    held :=
                      (s.line.slots.ctl a.slot).held ||
                        (hold && !decide (a.slot = .dump ∧ s.line.slots.dumpRun ≠ none)) }).mergeFollowOn a.slot) } } := by
  rw [attemptFailed_waiting sending noRestart, failSlot_retry (s := s.ended) hold below, settleSlots_eq]
  rfl

/-- R57, R106: the end of an attempt while a restart waits. -/
theorem attemptFailed_restarting {s : State} {a : Attempt} (sending : s.line.attempt = some a)
    (restart : s.line.restartPending = true) (hold : Bool) :
    s.attemptFailed hold = { s with line := s.line.emptied } := by
  rw [State.attemptFailed, sending]
  exact if_pos restart

theorem attemptLost_restarting {s : State} {a : Attempt} (sending : s.line.attempt = some a)
    (restart : s.line.restartPending = true) : s.attemptLost = { s with line := s.line.emptied } := by
  rw [State.attemptLost, sending]
  exact if_pos restart

theorem attemptFailed_none {s : State} (unsent : s.line.attempt = none) (hold : Bool) : s.attemptFailed hold = s := by
  rw [State.attemptFailed, unsent]

/-- R102: no follow-on waits. -/
theorem mergeFollowOn_none {t : TxSlots} {id : SlotId} (report : id = .report → t.reportFollowOn = none)
    (level : ∀ k, id = .level k → (t.level.get k).followOn = none) (c : SlotCtl) :
    (t.setCtl id c).mergeFollowOn id = t.setCtl id c := by
  cases id with
  | report => simp only [TxSlots.mergeFollowOn, TxSlots.setCtl, report rfl]
  | level k =>
    simp only [TxSlots.mergeFollowOn, TxSlots.setCtl, Four.get_set, if_true, LevelSlot.mergeFollowOn, level k rfl,
      Four.set_set]
  | _ => rfl

/-- R102: the follow-on of the REPORT slot. -/
theorem mergeFollowOn_report {t : TxSlots} {q : ReportRequest} (waits : t.reportFollowOn = some q) (c : SlotCtl) :
    (t.setCtl .report c).mergeFollowOn .report =
      { t with reportHolds := some q, reportFollowOn := none, report := { attempts := 0, held := false } } := by
  simp only [TxSlots.mergeFollowOn, TxSlots.setCtl, waits]
  rfl

/-- R101, R102: the follow-on of a LEVEL slot. -/
theorem mergeFollowOn_level {t : TxSlots} {k : Num4} {f : LevelRequest} (waits : (t.level.get k).followOn = some f)
    (c : SlotCtl) :
    (t.setCtl (.level k) c).mergeFollowOn (.level k) =
      { t with
        level :=
          t.level.set k
            { ctl :=
                if mergeLevel (t.level.get k).content f = (t.level.get k).content then c
                else { attempts := 0, held := false }
              content := mergeLevel (t.level.get k).content f, followOn := none } } := by
  simp only [TxSlots.mergeFollowOn, TxSlots.setCtl, Four.get_set, if_true, LevelSlot.mergeFollowOn, waits, Four.set_set]
  rfl

/-- Settles O25: the outcome by what waits in the slot, then the slots, the restart, and the other stations. -/
theorem lossAndFailure : Obligations.LossAndFailure := by
  refine ⟨fun s a sending noRestart => ?_, fun t id c => ?_, fun s a sending restart => ⟨?_, ?_, ?_⟩,
    fun s m othersError othersHold received unsent pulled => ?_⟩
  · intro c ended ends
    have ends_of : ∀ merged : SlotCtl → TxSlots,
        (∀ kept, (s.line.slots.setCtl a.slot kept).mergeFollowOn a.slot = merged kept) → ends merged := by
      intro merged merges
      refine ⟨fun char bit early recessive => ?_, fun below => ?_, fun m oe oh below received pulled => ?_⟩
      · have lost := merges c
        rw [setCtl_ctl] at lost
        rw [exec_arbitrationLoss sending early recessive, attemptLost_waiting sending noRestart, lost]
      · rw [exec_senderBreakOff, attemptFailed_retry sending noRestart false below, Bool.false_and, Bool.or_false, merges]
      · rw [exec_messageFailed received pulled,
          attemptFailed_retry (s := s.signalling m) sending noRestart _ below]
        exact congrArg (fun slots => Host.Outcome.next (ended (s.signalled m s.line) (s.settled slots))) (merges _)
    clear_value ends
    refine ⟨fun report level => ends_of _ fun kept => mergeFollowOn_none report level kept, fun q slot waits => ?_,
      fun k f slot waits => ?_⟩
    · refine ends_of _ fun kept => ?_
      rw [slot]
      exact mergeFollowOn_report waits kept
    · intro l content
      refine ends_of _ fun kept => ?_
      rw [slot]
      exact mergeFollowOn_level waits kept
  · refine ⟨fun j => TxSlots.ctl_setCtl t id j c, ?_, fun k => ?_⟩
    · cases id <;> exact ⟨rfl, rfl, rfl, rfl, rfl, rfl⟩
    · cases id with
      | level j =>
        by_cases same : k = j
        · simp [TxSlots.setCtl, same]
        · simp [TxSlots.setCtl, same]
      | _ => exact ⟨rfl, rfl⟩
  · intro char bit early recessive
    rw [exec_arbitrationLoss sending early recessive, attemptLost_restarting sending restart]
  · rw [exec_senderBreakOff, attemptFailed_restarting sending restart]
  · intro m oe oh received pulled
    rw [exec_messageFailed received pulled, attemptFailed_restarting (s := s.signalling m) sending restart]
    rfl
  · rw [exec_messageFailed received pulled, attemptFailed_none (s := s.signalling m) unsent]
    rfl

end Sys2Proof.Machine

/-! The sixteenth failure of a slot, and the acceptance of the node's own messages (R103 to R105). -/

namespace Sys2Proof.Machine

/-! ## O26: ABANDON -/

theorem failSlot_abandons {s : State} {id : SlotId} (hold : Bool) (last : (s.line.slots.ctl id).attempts = 15) :
    s.failSlot id hold = s.abandonSlot id := by
  rw [State.failSlot]
  exact if_pos (by rw [last]; decide)

/-- R103: the failure that is the sixteenth of its slot. -/
theorem attemptFailed_abandons {s : State} {a : Attempt} (sending : s.line.attempt = some a)
    (noRestart : s.line.restartPending = false) (hold : Bool) (last : (s.line.slots.ctl a.slot).attempts = 15) :
    s.attemptFailed hold = (s.ended.abandonSlot a.slot).settleSlots := by
  rw [attemptFailed_waiting sending noRestart]
  exact congrArg State.settleSlots (failSlot_abandons (s := s.ended) hold last)

theorem isAbandon_of {s : State} {a : Attempt} (sending : s.line.attempt = some a)
    (noRestart : s.line.restartPending = false) (last : (s.line.slots.ctl a.slot).attempts = 15) (f : FailureEvent) :
    s.isAbandon f =
      match f with
      | .trailer m e h => s.fails m e h
      | .breakOff => true := by
  unfold State.isAbandon
  rw [sending]
  simp only [noRestart, last]
  cases f <;> rfl

/-- R50, R103: the line interface with the own signals of a failure counted. -/
def State.failureLine (s : State) (f : FailureEvent) : LineInterface :=
  match f with
  | .breakOff => s.line
  | .trailer m _ _ => s.signalled m s.line

/-- R103, R105: ABANDON is the event of its failure. -/
theorem exec_abandon {s : State} {a : Attempt} {f : FailureEvent} {c : Instr} (sending : s.line.attempt = some a)
    (noRestart : s.line.restartPending = false) (last : (s.line.slots.ctl a.slot).attempts = 15)
    (event : (f = .breakOff ∧ c = .senderBreakOff) ∨
      (∃ m oe oh, f = .trailer m oe oh ∧ c = .messageFailed m oe oh ∧ s.fails m oe oh = true)) :
    let v :=
      (State.abandonSlot { s with line := { s.failureLine f with attempt := none, idle := false } } a.slot).settleSlots
    exec (.abandon f) s = .next v ∧ exec c s = .next v := by
  have abandons := isAbandon_of sending noRestart last f
  rcases event with ⟨rfl, rfl⟩ | ⟨m, oe, oh, rfl, rfl, fails⟩
  · have failed := congrArg (Host.Outcome.next (φ := Fault) (ρ := Refusal)) (attemptFailed_abandons sending noRestart false last)
    refine ⟨?_, failed⟩
    show execAbandon .breakOff s = _
    rw [execAbandon, if_pos abandons]
    exact failed
  · have failed := congrArg (Host.Outcome.next (φ := Fault) (ρ := Refusal))
      (attemptFailed_abandons (s := s.signalling m) sending noRestart (!(oe || s.signalsError m)) last)
    refine ⟨?_, ?_⟩
    · show execAbandon (.trailer m oe oh) s = _
      rw [execAbandon, if_pos (abandons.trans fails)]
      exact failed
    · show execMessageFailed m oe oh s = _
      rw [execMessageFailed, if_pos fails]
      exact failed

/-- Settles O26: slot by slot. -/
theorem abandonConsequences : Obligations.AbandonConsequences := by
  intro s a f c sending noRestart last event t l becomes
  obtain ⟨abandon, failure⟩ := exec_abandon sending noRestart last event
  have slots : l.slots = s.line.slots := by cases f <;> rfl
  have count : l.abandoned = s.line.abandoned := by cases f <;> rfl
  have owner : l.runOwner = s.line.runOwner := by cases f <;> rfl
  have inbound : l.inbound = s.line.inbound := by cases f <;> rfl
  have becomes_of : ∀ (u : State) (slots : TxSlots),
      State.abandonSlot { s with line := { l with attempt := none, idle := false } } a.slot =
        { u with
          line :=
            { l with attempt := none, idle := false, abandoned := satInc s.line.abandoned, slots := slots } } →
        becomes u slots := by
    intro u slots abandoned
    have next := congrArg (Host.Outcome.next (φ := Fault) (ρ := Refusal))
      ((congrArg State.settleSlots abandoned).trans (settleSlots_eq _))
    exact ⟨abandon.trans next, failure.trans next⟩
  clear_value becomes l
  refine ⟨owner, inbound, fun slot => becomes_of _ _ ?_, fun slot noRun => becomes_of _ _ ?_,
    fun slot run => becomes_of _ _ ?_, fun slot notFound => becomes_of _ _ ?_, fun slot found => becomes_of _ _ ?_,
    fun slot => becomes_of _ _ ?_, fun slot => becomes_of _ _ ?_, fun slot => becomes_of _ _ ?_,
    fun k slot => becomes_of _ _ ?_⟩ <;>
    simp only [State.abandonSlot, t, slot, slots, count, TxSlots.setCtl]
  · rfl
  · simp only [noRun]
  · obtain ⟨run, opened⟩ := Option.ne_none_iff_exists'.mp run
    simp only [opened]
  · cases holds : s.line.slots.joinFoundHolds with
    | none => rfl
    | some x =>
      cases x with
      | join => rfl
      | found => exact absurd holds notFound
  · simp only [found]
    rfl
  · rfl
  · simp only [Four.get_set, if_true, Four.set_set]
    rfl

end Sys2Proof.Machine

/-! The acceptance of the node's own messages (R52, R104). -/

namespace Sys2Proof.Machine

/-! ## O27 -/

/-- R31, R52 to R59: the node with the marks of the acceptance of its own message, before the decision and the slot's outcome. -/
def State.marked (s : State) (m : Reception) (msg : Message) (crossed : Bool) : State :=
  { s with
    line := s.line.accepted msg (s.queueAfter m msg crossed) s.line.slots
    ctl := s.ctl.heardFrom s.own }

/-- R52, R104: the acceptance of the message of the attempt under way. -/
theorem exec_acceptedOwn {s : State} {m : Reception} {msg : Message} {a : Attempt} (accepts : Accepts s m msg)
    (sending : s.line.attempt = some a) (own : msg.source = s.own) :
    exec (.messageAccepted m) s =
      .next (((s.marked m msg a.crossed).acceptDecision a.crossed msg).acceptOwn a).settleSlots := by
  have heard : s.heard (s.queues m msg) a.crossed msg = s.marked m msg a.crossed := by
    have timer : s.timerHeard a.crossed msg = s.timer := by simp [State.timerHeard, own]
    rw [heard_eq, timer, own]
    rfl
  rw [exec_accepted accepts]
  rcases accept_cases s (s.queues m msg) m.boundary msg with ⟨duplicate, -⟩ | ⟨mismatched, -⟩ | ⟨-, -, eq⟩
  · simp [State.duplicate, sending] at duplicate
  · simp [State.mismatched, own] at mismatched
  · rw [eq]
    simp only [State.boundaryOf, sending, State.ownEnd, heard]

/-- R54, R112 to R116: the node's own message decides nothing, but where it fails a dump. -/
theorem acceptDecision_own {s : State} {boundary : Bool} {msg : Message} (own : msg.source = s.own)
    (closed : ∀ b, s.ctl.station = .dumpReceive → s.engine.build = some b → b.closing = true) :
    s.acceptDecision boundary msg = s := by
  unfold State.acceptDecision
  split
  next => exact if_pos own
  next => exact if_pos own
  next receiving =>
    split
    · rfl
    next b build => exact if_pos (closed b receiving build)
  all_goals rfl

/-- R104: the slot's outcome on the node as marked. -/
theorem acceptOwn_slot {s : State} (noRestart : s.line.restartPending = false) (a : Attempt) :
    s.acceptOwn a = s.slotAccepted a := by
  rw [State.acceptOwn]
  exact if_neg (by simp [noRestart])

theorem founding_check (own : Nat) : stateCheck (.founding own) = BitVec.ofNat 16 (own * 256 + 7) := by
  simp [stateCheck, Replica.founding, Replica.empty, claimTerms, memberTerm]

/-- R118: entry to RUN with the founding replica. -/
theorem found_eq (s : State) (p : Byte) :
    s.found p =
      { s with
        engine :=
          { s.engine with
            replica := { Replica.empty with roster := [{ station := s.own, incarnation := 0 }] }
            heldCheck := BitVec.ofNat 16 (s.own * 256 + 7), dumpOwed := false, build := none, witnesses := []
            mismatches := 0 }
        ctl :=
          { s.ctl with
            station := .run, ownIncarnation := 0, joinWait := 0, presence := s.own * 7 % s.cfg.presence + 1
            silence := [] }
        chans := s.chans.map fun c => c.resolve false
        timer := { s.timer with period := p }
        line := { s.line with slots := { s.line.slots with joinFoundHolds := none } } } := by
  have silence : freshSilence s.own [{ station := s.own, incarnation := 0 }] = [] := by simp [freshSilence]
  have incarnation : incarnationIn s.own [{ station := s.own, incarnation := 0 }] = 0 := by
    simp [incarnationIn, memberOf]
  have chans : (s.found p).chans = s.chans.map fun c => c.resolve false :=
    Four.ext_get fun n => by rw [Four.get_map]; exact Four.get_tabulate _ n
  have ctl : (s.found p).ctl =
      { s.ctl with
        station := .run, joinWait := 0
        ownIncarnation := incarnationIn s.own [{ station := s.own, incarnation := 0 }]
        presence := s.own * 7 % s.cfg.presence + 1
        silence := freshSilence s.own [{ station := s.own, incarnation := 0 }] } := rfl
  rw [incarnation, silence] at ctl
  rw [← chans, ← ctl, ← founding_check]
  rfl

/-- Settles O27. -/
theorem ownMessageAccepted : Obligations.OwnMessageAccepted := by
  intro s m msg a accepts sending message own queue ctl slots becomes reported levelled
  have exec_eq := exec_acceptedOwn accepts sending own
  have payload_eq : a.message.payload = msg.payload := congrArg Message.payload message
  let marked := s.marked m msg a.crossed
  refine ⟨fun noRestart => ?_, fun restart joinSend => ?_⟩
  · have becomes_of : ∀ (d u : State) (inbound : List Record) (slots : TxSlots),
        marked.acceptDecision a.crossed msg = d → d.line.restartPending = false →
        d.slotAccepted a = { u with line := u.line.accepted msg inbound slots } → becomes u inbound slots := by
      intro d u inbound slots decision waits done
      have next : ((marked.acceptDecision a.crossed msg).acceptOwn a).settleSlots =
          { u with line := u.line.accepted msg inbound (u.settled slots) } := by
        rw [decision, acceptOwn_slot waits, done, settleSlots_eq]
        rfl
      exact exec_eq.trans (congrArg Host.Outcome.next next)
    have stands_of : ∀ (u : State) (slots : TxSlots),
        (∀ b, s.ctl.station = .dumpReceive → s.engine.build = some b → b.closing = true) →
        marked.slotAccepted a = { u with line := u.line.accepted msg queue slots } → becomes u queue slots :=
      fun u slots closed => becomes_of marked u queue slots (acceptDecision_own own closed) noRestart
    have elsewhere : ∀ {st : StationState}, st ≠ .dumpReceive → s.ctl.station = st →
        ∀ b, s.ctl.station = .dumpReceive → s.engine.build = some b → b.closing = true :=
      fun other station b receiving => absurd (station.symm.trans receiving) other
    clear_value becomes
    refine ⟨fun e d slot join station => ?_, fun p d slot found station => ?_, fun slot run => ?_,
      fun f sn slot open_ snapshot run => ?_, fun p dumpRun slot part snapshot opened run => ?_,
      fun e es slot place run => ?_, fun e ps slot evict run => ?_, fun closed => ⟨fun w body slot report => ?_,
      fun k op mask v slot level => ?_⟩, fun b receiving build notClosing => ?_⟩
    · refine stands_of _ _ (elsewhere (by decide) station) ?_
      have here : marked.ctl.station = .joinSend := station
      rw [State.slotAccepted, slot]
      simp only [payload_eq, join, here]
      rfl
    · refine stands_of _ _ (elsewhere (by decide) station) ?_
      have here : marked.ctl.station = .foundSend := station
      rw [State.slotAccepted, slot]
      simp only [payload_eq, found, here]
      rw [found_eq]
      rfl
    · refine stands_of _ _ (elsewhere (by decide) run) ?_
      rw [State.slotAccepted, slot]
      rfl
    · refine stands_of _ _ (elsewhere (by decide) run) ?_
      rw [State.slotAccepted, slot]
      simp only [snapshot]
      rfl
    · refine stands_of _ _ (elsewhere (by decide) run) ?_
      have position : (marked.line.slots.setCtl .dump { marked.line.slots.ctl .dump with attempts := 0 }).dumpRun =
          some dumpRun := opened
      rw [State.slotAccepted, slot]
      simp only [snapshot, position]
      rfl
    · refine stands_of _ _ (elsewhere (by decide) run) ?_
      rw [State.slotAccepted, slot]
      rfl
    · refine stands_of _ _ (elsewhere (by decide) run) ?_
      rw [State.slotAccepted, slot]
      rfl
    · refine stands_of _ _ closed ?_
      rw [State.slotAccepted, slot]
      rfl
    · refine stands_of _ _ closed ?_
      rw [State.slotAccepted, slot]
      simp only [TxSlots.setCtl, TxSlots.ctl, Four.get_set, if_true, Four.set_set]
      rfl
    · have decision : msg.payload.kind ≠ 4 → marked.acceptDecision a.crossed msg = marked.failDump := by
        intro kind
        rw [acceptDecision_dumpReceive (s := marked) receiving build, if_neg (by simp [notClosing]), if_pos kind]
      refine ⟨fun w body slot report => ?_, fun k op mask v slot level => ?_⟩
      · refine becomes_of marked.failDump _ _ _ (decision (by simp [report, Payload.kind])) noRestart ?_
        rw [State.slotAccepted, slot]
        rfl
      · refine becomes_of marked.failDump _ _ _ (decision (by simp [level, Payload.kind])) noRestart ?_
        rw [State.slotAccepted, slot]
        simp only [TxSlots.setCtl, TxSlots.ctl, Four.get_set, if_true, Four.set_set]
        rfl
  · have stands : marked.acceptDecision a.crossed msg = marked := acceptDecision_joinSend (s := marked) joinSend
    have outside : ¬ (marked.ctl.station = .run) := by
      rw [show marked.ctl.station = .joinSend from joinSend]
      decide
    have next : ((marked.acceptDecision a.crossed msg).acceptOwn a).settleSlots =
        { s with
          line :=
            { s.line.accepted msg [] s.line.emptied.slots with holdLatch := false, restartPending := false }
          ctl := ctl } := by
      rw [stands, State.acceptOwn, if_pos (show marked.line.restartPending = true from restart),
        settleSlots_outside (s := { marked with line := marked.line.restarted }) outside]
      rfl
    exact exec_eq.trans (congrArg Host.Outcome.next next)

end Sys2Proof.Machine

/-! Opportunities, ready slots, and the choice among them (R90 to R92, R98, R99). -/

namespace Sys2Proof.Machine

/-! ## The choice among slots -/

/-- R91: the slot so far against the next one. -/
def State.lowerOf (s : State) (best : Option SlotId) (id : SlotId) : Option SlotId :=
  match best with
  | none => some id
  | some b => if s.arbitrationValue id < s.arbitrationValue b then some id else some b

theorem select_eq (s : State) (ids : List SlotId) : s.select ids = ids.foldl s.lowerOf none := rfl

/-- R91: the choice falls on the earliest of the lowest value. -/
theorem foldl_lowerOf (s : State) (ids : List SlotId) : ∀ b id, ids.foldl s.lowerOf (some b) = some id →
    ∃ l₁ l₂, b :: ids = l₁ ++ id :: l₂ ∧ (∀ j ∈ l₁, s.arbitrationValue id < s.arbitrationValue j) ∧
      ∀ j ∈ l₂, s.arbitrationValue id ≤ s.arbitrationValue j := by
  induction ids with
  | nil =>
    rintro b id ⟨rfl⟩
    exact ⟨[], [], rfl, by simp, by simp⟩
  | cons d ds ih =>
    intro b id chosen
    rw [List.foldl_cons] at chosen
    by_cases lower : s.arbitrationValue d < s.arbitrationValue b
    · rw [show s.lowerOf (some b) d = some d from if_pos lower] at chosen
      obtain ⟨l₁, l₂, parts, before, after⟩ := ih d id chosen
      have first : s.arbitrationValue id ≤ s.arbitrationValue d := by
        cases l₁ with
        | nil => rw [(List.cons.inj parts).1]
        | cons x xs => exact Nat.le_of_lt (before d (by rw [(List.cons.inj parts).1]; simp))
      refine ⟨b :: l₁, l₂, by rw [parts, List.cons_append], ?_, after⟩
      rintro j mem
      rcases List.mem_cons.mp mem with rfl | mem
      · exact Nat.lt_of_le_of_lt first lower
      · exact before j mem
    · rw [show s.lowerOf (some b) d = some b from if_neg lower] at chosen
      obtain ⟨l₁, l₂, parts, before, after⟩ := ih b id chosen
      cases l₁ with
      | nil =>
        obtain ⟨rfl, rfl⟩ := List.cons.inj parts
        refine ⟨[], d :: ds, rfl, by simp, ?_⟩
        rintro j mem
        rcases List.mem_cons.mp mem with rfl | mem
        · exact Nat.le_of_not_lt lower
        · exact after j mem
      | cons y ys =>
        obtain ⟨rfl, rfl⟩ := List.cons.inj parts
        have first := before b (by simp)
        refine ⟨b :: d :: ys, l₂, rfl, ?_, after⟩
        rintro j mem
        rcases List.mem_cons.mp mem with rfl | mem
        · exact first
        rcases List.mem_cons.mp mem with rfl | mem
        · exact Nat.lt_of_lt_of_le first (Nat.le_of_not_lt lower)
        · exact before j (by simp [mem])

theorem select_spec {s : State} {ids : List SlotId} {id : SlotId} (h : s.select ids = some id) :
    ∃ l₁ l₂, ids = l₁ ++ id :: l₂ ∧ (∀ j ∈ l₁, s.arbitrationValue id < s.arbitrationValue j) ∧
      ∀ j ∈ l₂, s.arbitrationValue id ≤ s.arbitrationValue j := by
  cases ids with
  | nil => cases h
  | cons b bs => exact foldl_lowerOf s bs b id h

theorem select_isSome {s : State} {ids : List SlotId} (h : ids ≠ []) : ∃ id, s.select ids = some id := by
  cases ids with
  | nil => exact absurd rfl h
  | cons b bs =>
    rw [select_eq, List.foldl_cons]
    show ∃ id, bs.foldl s.lowerOf (some b) = some id
    clear h
    induction bs generalizing b with
    | nil => exact ⟨b, rfl⟩
    | cons d ds ih =>
      rw [List.foldl_cons]
      by_cases lower : s.arbitrationValue d < s.arbitrationValue b
      · rw [show s.lowerOf (some b) d = some d from if_pos lower]
        exact ih d
      · rw [show s.lowerOf (some b) d = some b from if_neg lower]
        exact ih b

theorem select_le {s : State} {ids : List SlotId} {id : SlotId} (h : s.select ids = some id) :
    id ∈ ids ∧ ∀ j ∈ ids, s.arbitrationValue id ≤ s.arbitrationValue j := by
  obtain ⟨l₁, l₂, rfl, before, after⟩ := select_spec h
  refine ⟨by simp, fun j mem => ?_⟩
  rcases List.mem_append.mp mem with early | late
  · exact Nat.le_of_lt (before j early)
  · rcases List.mem_cons.mp late with rfl | later
    · exact Nat.le_refl _
    · exact after j later

/-- R91: a slot of a value below every other's is the choice. -/
theorem select_of_lowest {s : State} {ids : List SlotId} {id : SlotId} (mem : id ∈ ids)
    (lowest : ∀ j ∈ ids, j ≠ id → s.arbitrationValue id < s.arbitrationValue j) : s.select ids = some id := by
  obtain ⟨chosen, select⟩ := select_isSome (s := s) (List.ne_nil_of_mem mem)
  obtain ⟨listed, low⟩ := select_le select
  by_cases same : chosen = id
  · rw [select, same]
  · exact absurd (low id mem) (Nat.not_le.mpr (lowest chosen listed same))

/-! ## The start of an attempt -/

theorem exec_attemptStart {s : State} (opportunity : s.opportunity = true) :
    exec .attemptStart s = .next (State.tryBuilds 10 (allSlots.filter s.ready) s).settleSlots := by
  show execAttemptStart s = _
  exact if_pos opportunity

theorem tryBuilds_builds {n : Nat} {ids : List SlotId} {id : SlotId} {s s' : State} {m : Message} {sn : Option Snapshot}
    (select : s.select ids = some id) (build : s.buildFor id = (s', some (m, sn))) :
    State.tryBuilds (n + 1) ids s =
      { s' with
        line :=
          { s'.line with
            idle := false, attempt := some { slot := id, message := m, snapshot := sn, crossed := false } } } := by
  rw [State.tryBuilds, select]
  dsimp only
  rw [build]

theorem tryBuilds_passes {n : Nat} {ids : List SlotId} {id : SlotId} {s s' : State} (select : s.select ids = some id)
    (build : s.buildFor id = (s', none)) : State.tryBuilds (n + 1) ids s = State.tryBuilds n (ids.erase id) s' := by
  rw [State.tryBuilds, select]
  dsimp only
  rw [build]

theorem tryBuilds_nil (n : Nat) (s : State) : State.tryBuilds n [] s = s := by
  cases n <;> rfl

/-- R91 to R93: the choice whose build gives a message goes on the line. -/
theorem exec_attemptStart_builds {s s' : State} {id : SlotId} {m : Message} {sn : Option Snapshot}
    (opportunity : s.opportunity = true) (select : s.select (allSlots.filter s.ready) = some id)
    (build : s.buildFor id = (s', some (m, sn))) :
    exec .attemptStart s =
      .next
        { s' with
          line :=
            { s'.line with
              idle := false, slots := s'.settled s'.line.slots
              attempt := some { slot := id, message := m, snapshot := sn, crossed := false } } } := by
  rw [exec_attemptStart opportunity, tryBuilds_builds select build, settleSlots_eq]
  rfl

/-! ## Readiness -/

/-- R92: the slot is not held and no run of this node is open. -/
def State.free (s : State) (id : SlotId) : Prop := (s.line.slots.ctl id).held = false ∧ s.line.runOwner ≠ some s.own

theorem ownRun_eq_false_iff (s : State) : s.ownRun = false ↔ s.line.runOwner ≠ some s.own := by
  simp [State.ownRun]

theorem opportunity_iff (s : State) :
    s.opportunity = true ↔
      s.ctl.station.listening = true ∧ s.line.idle = true ∧
        (s.line.runOwner = none ∨ s.line.runOwner = some s.own) ∧ s.line.attempt = none := by
  simp [State.opportunity, State.ownRun, and_assoc]

theorem ready_joinFound_iff (s : State) :
    s.ready .joinFound = true ↔
      s.free .joinFound ∧
        ((s.ctl.station = .joinSend ∧ s.line.slots.joinFoundHolds = some .join ∧ s.timer.adoptionWait = 0) ∨
          (s.ctl.station = .foundSend ∧ s.line.slots.joinFoundHolds = some .found ∧ s.timer.slot ≤ 31)) := by
  cases holds : s.line.slots.joinFoundHolds with
  | none => simp [State.ready, State.hasWork, holds]
  | some x =>
    cases x with
    | join =>
      simp [State.ready, State.hasWork, holds, State.free, State.ownRun]
      tauto
    | found =>
      simp [State.ready, State.hasWork, holds, State.free, State.ownRun, State.quarterGate]
      tauto

theorem ready_dump_iff (s : State) :
    s.ready .dump = true ↔
      s.ctl.station = .run ∧ (s.line.slots.dumpRun ≠ none ∨
        (s.engine.dumpOwed = true ∧ s.line.inbound = [] ∧ s.timer.slot ≤ 31 ∧ s.line.slots.dump.held = false)) := by
  cases run : s.line.slots.dumpRun with
  | none =>
    simp [State.ready, State.hasWork, run, State.quarterGate, TxSlots.ctl]
    tauto
  | some x => simp [State.ready, State.hasWork, run]

theorem ready_evict_iff (s : State) :
    s.ready .evict = true ↔ s.ctl.station = .run ∧ s.toEvict ≠ [] ∧ s.line.inbound = [] ∧ s.free .evict := by
  simp [State.ready, State.hasWork, State.free, State.ownRun]
  tauto

theorem ready_place_iff (s : State) :
    s.ready .place = true ↔
      s.ctl.station = .run ∧ (∃ n, (s.chans.get n).owed = true) ∧ s.line.inbound = [] ∧ s.line.slots.cooldown = 0 ∧
        s.free .place := by
  have work := hasWork_place s
  simp only [State.ready, Bool.and_eq_true, work]
  simp [State.free, State.ownRun]
  tauto

theorem ready_presence_iff (s : State) :
    s.ready .presence = true ↔
      s.ctl.station = .run ∧ s.line.slots.presenceWork = true ∧ s.line.inbound = [] ∧ s.timer.slot ≤ 63 ∧
        s.free .presence := by
  simp [State.ready, State.hasWork, State.free, State.ownRun, State.halfGate]
  tauto

theorem ready_report_iff (s : State) :
    s.ready .report = true ↔ s.ctl.station.listening = true ∧ s.line.slots.reportHolds ≠ none ∧ s.free .report := by
  simp [State.ready, State.hasWork, State.free, State.ownRun, Option.isSome_iff_ne_none]
  tauto

theorem ready_level_iff (s : State) (k : Num4) :
    s.ready (.level k) = true ↔
      s.ctl.station.listening = true ∧ (s.line.slots.level.get k).content ≠ none ∧ s.free (.level k) := by
  simp [State.ready, State.hasWork, State.free, State.ownRun, Option.isSome_iff_ne_none]
  tauto

theorem mem_toEvict (s : State) (m : Member) :
    m ∈ s.toEvict ↔
      m ∈ s.engine.replica.roster ∧ m.station ≠ s.own ∧ 4 * s.cfg.presence ≤ silenceOf s.ctl.silence m.station := by
  rw [State.toEvict, List.mem_filter, Bool.and_eq_true, bne_iff_ne, decide_eq_true_eq]
  rfl

/-! ## Arbitration values -/

theorem foldl_min_eq {c : Nat} : ∀ (cs : List Nat) (a : Nat), c ≤ a → (∀ x ∈ cs, c ≤ x) → c = a ∨ c ∈ cs →
    cs.foldl min a = c := by
  intro cs
  induction cs with
  | nil => simp +contextual
  | cons x xs ih =>
    intro a first rest here
    rw [List.forall_mem_cons] at rest
    rw [List.foldl_cons]
    refine ih (min a x) (Nat.le_min.mpr ⟨first, rest.1⟩) rest.2 ?_
    rw [List.mem_cons] at here
    have low := rest.1
    rcases here with rfl | rfl | later
    · exact .inl (Nat.min_eq_left low).symm
    · exact .inl (Nat.min_eq_right first).symm
    · exact .inr later

/-- R94: the lowest class among the owed channels. -/
theorem arbitrationValue_place {s : State} {c : Nat} (range : c ≤ 3)
    (owed : ∃ n, (s.chans.get n).owed = true ∧ (s.chans.get n).cls = c)
    (lowest : ∀ n, (s.chans.get n).owed = true → c ≤ (s.chans.get n).cls) :
    s.arbitrationValue .place = (1 + c) * 32 + 6 := by
  have lowest_eq : lowestClass ((allFour.filter fun n => (s.chans.get n).owed).map fun n => (s.chans.get n).cls) = c := by
    refine foldl_min_eq _ _ range ?_ (.inr ?_)
    · simpa using lowest
    · simpa using owed
  simp only [State.arbitrationValue, lowest_eq]

end Sys2Proof.Machine

/-! The parts of a snapshot (R99). -/

namespace Sys2Proof.Machine

/-! ## A list cut into parts of one length -/

theorem chunks_flatten {α : Type} {k : Nat} (pos : 1 ≤ k) :
    ∀ (n : Nat) (xs : List α), xs.length ≤ n → (chunks k n xs).flatten = xs := by
  intro n
  induction n with
  | zero => exact fun xs fits => (List.length_eq_zero_iff.mp (Nat.le_zero.mp fits)).symm
  | succ n ih =>
    intro xs fits
    rw [chunks]
    cases xs with
    | nil => rfl
    | cons x xs =>
      rw [if_neg (by simp), List.flatten_cons, ih _ (by simp at fits ⊢; omega), List.take_append_drop]

theorem chunks_length {α : Type} {k : Nat} (pos : 1 ≤ k) :
    ∀ (n : Nat) (xs : List α), ∀ c ∈ chunks k n xs, 1 ≤ c.length ∧ c.length ≤ k := by
  intro n
  induction n with
  | zero => simp [chunks]
  | succ n ih =>
    intro xs
    rw [chunks]
    cases xs with
    | nil => simp
    | cons x xs =>
      rw [if_neg (by simp), List.forall_mem_cons]
      exact ⟨by simp; omega, ih _⟩

theorem chunks_nil {α : Type} (k n : Nat) : chunks k n ([] : List α) = [] := by
  cases n <;> rfl

/-- R99: every part but the last is full. -/
theorem chunks_dropLast {α : Type} {k : Nat} : ∀ (n : Nat) (xs : List α), ∀ c ∈ (chunks k n xs).dropLast, c.length = k := by
  intro n
  induction n with
  | zero => simp [chunks]
  | succ n ih =>
    intro xs
    rw [chunks]
    cases xs with
    | nil => simp
    | cons x xs =>
      rw [if_neg (by simp)]
      by_cases more : chunks k n ((x :: xs).drop k) = []
      · simp [more]
      · rw [List.dropLast_cons_of_ne_nil more, List.forall_mem_cons]
        refine ⟨?_, ih _⟩
        have left : k < (x :: xs).length := by
          by_contra short
          exact more (by rw [List.drop_of_length_le (Nat.le_of_not_lt short), chunks_nil])
        rw [List.length_take]
        exact Nat.min_eq_left (Nat.le_of_lt left)

/-! ## The Claim List cut into runs of one station -/

/-- R99: a part of one station, of one to four claims. -/
def ClaimPart (p : Nat × List Claim) : Prop := 1 ≤ p.2.length ∧ p.2.length ≤ 4 ∧ ∀ c ∈ p.2, c.station = p.1

/-- R99: the next part is of the same station only after a full one. -/
def FullBefore (p q : Nat × List Claim) : Prop := p.1 = q.1 → p.2.length = 4

/-- R99: the first part the cut gives, after the claims of the open one. -/
def BeginsWith (p : Nat × List Claim) (ps : List (Nat × List Claim)) : Prop :=
  ∃ l rest, ps = (p.1, p.2 ++ l) :: rest

theorem claimPart_single (c : Claim) : ClaimPart (c.station, [c]) :=
  ⟨Nat.le_refl 1, by simp, by simp⟩

theorem ClaimPart.grown {st : Nat} {l : List Claim} {c : Claim} (part : ClaimPart (st, l)) (same : c.station = st)
    (room : l.length < 4) : ClaimPart (st, l ++ [c]) := by
  obtain ⟨_, _, own⟩ := part
  refine ⟨by simp, by simp; omega, fun d mem => ?_⟩
  rcases List.mem_append.mp mem with old | new
  · exact own d old
  · rw [List.mem_singleton.mp new]
    exact same

theorem claimRuns_some (cs : List Claim) : ∀ p : Nat × List Claim, ClaimPart p →
    (claimRuns (some p) cs).flatMap (·.2) = p.2 ++ cs ∧ (∀ q ∈ claimRuns (some p) cs, ClaimPart q) ∧
      BeginsWith p (claimRuns (some p) cs) ∧ (claimRuns (some p) cs).IsChain FullBefore := by
  induction cs with
  | nil =>
    intro p part
    exact ⟨by simp [claimRuns], by simpa [claimRuns] using part, ⟨[], [], by simp [claimRuns]⟩, by simp [claimRuns]⟩
  | cons c cs ih =>
    rintro ⟨st, l⟩ part
    by_cases joins : c.station = st ∧ l.length < 4
    · obtain ⟨all, parts, ⟨more, rest, begins⟩, chain⟩ := ih (st, l ++ [c]) (part.grown joins.1 joins.2)
      rw [claimRuns, if_pos joins]
      exact ⟨by simp [all], parts, ⟨c :: more, rest, by simp [begins]⟩, chain⟩
    · obtain ⟨all, parts, ⟨more, rest, begins⟩, chain⟩ := ih (c.station, [c]) (claimPart_single c)
      rw [claimRuns, if_neg joins]
      refine ⟨by simp [all], ?_, ⟨[], claimRuns (some (c.station, [c])) cs, by simp⟩, ?_⟩
      · rw [List.forall_mem_cons]
        exact ⟨part, parts⟩
      · rw [begins] at chain ⊢
        refine List.IsChain.cons_cons (fun same => ?_) chain
        obtain ⟨_, small, _⟩ := part
        exact Nat.le_antisymm small (Nat.le_of_not_lt fun room => joins ⟨same.symm, room⟩)

theorem claimRuns_none (cs : List Claim) :
    (claimRuns none cs).flatMap (·.2) = cs ∧ (∀ q ∈ claimRuns none cs, ClaimPart q) ∧
      (claimRuns none cs).IsChain FullBefore := by
  cases cs with
  | nil => simp [claimRuns]
  | cons c cs =>
    obtain ⟨all, parts, _, chain⟩ := claimRuns_some cs (c.station, [c]) (claimPart_single c)
    rw [claimRuns]
    exact ⟨by simpa using all, parts, chain⟩

/-- R99: two parts in a row. -/
theorem claimRuns_adjacent (cs : List Claim) {i : Nat} {p q : Nat × List Claim} (here : (claimRuns none cs)[i]? = some p)
    (next : (claimRuns none cs)[i + 1]? = some q) (same : p.1 = q.1) : p.2.length = 4 := by
  obtain ⟨_, _, chain⟩ := claimRuns_none cs
  obtain ⟨_, rfl⟩ := List.getElem?_eq_some_iff.mp here
  obtain ⟨bound, rfl⟩ := List.getElem?_eq_some_iff.mp next
  exact List.isChain_iff_getElem.mp chain i bound same

end Sys2Proof.Machine

/-! The choice at an attempt start and what the slots build (R91 to R94, R98, R99). -/

namespace Sys2Proof.Machine

/-! ## The parts in the order of the dump -/

theorem Snapshot.parts_spec (sn : Snapshot) :
    ∃ (rs : List (List Member)) (cs : List (Nat × List Claim)),
      sn.parts =
        rs.map (fun ms => .roster (ms.map Member.pair)) ++ [.cursor (if sn.cursor.valid = true then sn.cursor else .invalid)] ++
          cs.map (fun p => .claims p.1 (p.2.map Claim.entry)) ∧
      rs.flatten = sn.roster ∧ (∀ ms ∈ rs, 1 ≤ ms.length ∧ ms.length ≤ 8) ∧ (∀ ms ∈ rs.dropLast, ms.length = 8) ∧
      cs.flatMap (·.2) = sn.claims ∧ (∀ p ∈ cs, ClaimPart p) ∧
      ∀ (i : Nat) (p q : Nat × List Claim), cs[i]? = some p → cs[i + 1]? = some q → p.1 = q.1 → p.2.length = 4 := by
  obtain ⟨claims, parts, _⟩ := claimRuns_none sn.claims
  exact
    ⟨chunks 8 sn.roster.length sn.roster, claimRuns none sn.claims, rfl,
      chunks_flatten (by decide) _ _ (Nat.le_refl _), chunks_length (by decide) _ _, chunks_dropLast _ _, claims, parts,
      fun _ _ _ here next same => claimRuns_adjacent _ here next same⟩

/-! ## The LEVEL slots are tried in key order -/

/-- R91: of two LEVEL slots the one with the lower key comes first. -/
def SlotId.KeyOrder (x y : SlotId) : Prop := ∀ k j, x = .level k → y = .level j → k.val < j.val

theorem allSlots_keyOrder : allSlots.Pairwise SlotId.KeyOrder := by
  simp [allSlots, SlotId.KeyOrder]

theorem mem_allSlots (id : SlotId) : id ∈ allSlots := by
  cases id with
  | level k => revert k; decide
  | _ => decide

/-- R91: among the LEVEL slots, whose values are equal, the choice is the lowest key. -/
theorem select_level_le {s : State} {k j : Num4} (chosen : s.select (allSlots.filter s.ready) = some (.level k))
    (ready : s.ready (.level j) = true) : k.val ≤ j.val := by
  obtain ⟨l₁, l₂, parts, before, _⟩ := select_spec chosen
  have listed : SlotId.level j ∈ allSlots.filter s.ready :=
    List.mem_filter.mpr ⟨mem_allSlots (.level j), ready⟩
  have order := allSlots_keyOrder.filter s.ready
  rw [parts] at listed order
  rcases List.mem_append.mp listed with early | late
  · exact absurd (before _ early) (Nat.lt_irrefl 73)
  · rcases List.mem_cons.mp late with same | later
    · exact Nat.le_of_eq (congrArg Fin.val (SlotId.level.inj same).symm)
    · obtain ⟨_, after, _⟩ := List.pairwise_append.mp order
      exact Nat.le_of_lt ((List.pairwise_cons.mp after).1 _ later k j rfl rfl)

/-! ## What the slots build -/

theorem buildFor_dumpOpen {s : State} (run : s.line.slots.dumpRun = none) :
    s.buildFor .dump =
      (s, some (s.message 0 (.dumpOpen (s.snapshot.dumpOpen s.loader.digest)) 0 true, some s.snapshot)) := by
  simp only [State.buildFor, run]

theorem buildFor_dumpPart {s : State} {run : DumpRun} {p : DumpPart} (here : s.line.slots.dumpRun = some run)
    (part : run.snapshot.parts[run.position]? = some p) :
    s.buildFor .dump =
      (s, some (s.message 0 (.dumpPart p) 0 (run.position + 1 < run.snapshot.parts.length), none)) := by
  simp only [State.buildFor, here, part]

theorem buildFor_evict {s : State} (owed : s.toEvict ≠ []) :
    s.buildFor .evict =
      (s, some (s.message 0 (.evict s.stampNow ((s.toEvict.take 8).map Member.pair)), none)) := by
  cases members : s.toEvict with
  | nil => exact absurd members owed
  | cons m ms => simp only [State.buildFor, members, List.take_succ_cons]

theorem buildFor_level {s : State} {k : Num4} {l : LevelRequest} (content : (s.line.slots.level.get k).content = some l) :
    s.buildFor (.level k) = (s, some (s.message 2 (.level l.op l.mask (BitVec.ofNat 8 l.value)) l.dest, none)) := by
  simp only [State.buildFor, content]

/-- R91: with no ready slot nothing starts. -/
theorem exec_attemptStart_idle {s : State} (opportunity : s.opportunity = true) (none : allSlots.filter s.ready = []) :
    exec .attemptStart s = .next { s with line := { s.line with slots := s.settled s.line.slots } } := by
  rw [exec_attemptStart opportunity, none, tryBuilds_nil, settleSlots_eq]

/-! ## The value of each slot -/
theorem arbitrationValue_dump (s : State) :
    (s.line.slots.dumpRun = none → s.arbitrationValue .dump = 3) ∧
      (s.line.slots.dumpRun ≠ none → s.arbitrationValue .dump = 4) := by
  cases run : s.line.slots.dumpRun <;> simp [State.arbitrationValue, run]

theorem arbitrationValue_joinFound (s : State) :
    (s.line.slots.joinFoundHolds = some .join → s.arbitrationValue .joinFound = 1) ∧
      (s.line.slots.joinFoundHolds = some .found → s.arbitrationValue .joinFound = 2) := by
  constructor <;> intro holds <;> simp only [State.arbitrationValue, holds]

/-! ## The obligation -/

/-- Settles O21: the choice is the earliest ready slot of the lowest value, and each build is read off the slot's work. -/
theorem attemptStartSelects : Obligations.AttemptStartSelects := by
  unfold Obligations.AttemptStartSelects
  refine ⟨fun s id s' m sn opportunity select build => exec_attemptStart_builds opportunity select build,
    fun s => exec_attemptStart_idle, fun s => exec_attemptStart, fun n ids id s s' => tryBuilds_passes,
    fun s ids id => select_le, fun s k j => select_level_le, fun s => ?_, fun s => ?_, fun s => ?_, Snapshot.parts_spec⟩
  · exact
      ⟨opportunity_iff s, ready_joinFound_iff s, ready_dump_iff s, ready_evict_iff s, ready_place_iff s,
        ready_presence_iff s, ready_report_iff s, ready_level_iff s, List.filter_sublist, mem_toEvict s⟩
  · obtain ⟨join, found⟩ := arbitrationValue_joinFound s
    obtain ⟨opening, running⟩ := arbitrationValue_dump s
    exact
      ⟨join, found, opening, running, rfl, fun c range owed lowest => arbitrationValue_place range owed lowest, rfl,
        fun _ => rfl, rfl⟩
  · exact
      ⟨fun run => buildFor_dumpOpen run, fun run p here part => buildFor_dumpPart here part,
        fun owed => buildFor_evict owed, fun k l content => buildFor_level content⟩

end Sys2Proof.Machine

/-! The start of an attempt with a ready JOIN, FOUND, PRESENCE, REPORT or PLACE (R91 to R94, R182, R183). -/

namespace Sys2Proof.Machine

/-! ## The choice of JOIN, FOUND and PRESENCE -/

theorem mem_ready {s : State} {id : SlotId} : id ∈ allSlots.filter s.ready ↔ s.ready id = true := by
  simp [mem_allSlots]

theorem arbitrationValue_gt_two (s : State) {id : SlotId} (other : id ≠ .joinFound) : 2 < s.arbitrationValue id := by
  cases id with
  | joinFound => exact absurd rfl other
  | dump =>
    rw [State.arbitrationValue]
    split <;> decide
  | place =>
    rw [State.arbitrationValue]
    omega
  | evict => exact of_decide_eq_true rfl
  | presence => exact of_decide_eq_true rfl
  | report => exact of_decide_eq_true rfl
  | level k => exact of_decide_eq_true rfl

/-- R91: a ready JOIN or FOUND is the choice. -/
theorem select_joinFound {s : State} (ready : s.ready .joinFound = true) :
    s.select (allSlots.filter s.ready) = some .joinFound := by
  refine select_of_lowest (mem_ready.mpr ready) fun j _ other => Nat.lt_of_le_of_lt ?_ (arbitrationValue_gt_two s other)
  rw [State.arbitrationValue]
  split <;> decide

/-- RUN with no dump, eviction or placement owed: the slots of a value below PRESENCE's are not ready. -/
structure LowQuiet (s : State) : Prop where
  run : s.ctl.station = .run
  noOwedDump : s.engine.dumpOwed = false
  noDumpRun : s.line.slots.dumpRun = none
  noEvict : s.toEvict = []

namespace LowQuiet

variable {s : State} (quiet : LowQuiet s)
include quiet

theorem joinFound_not_ready : s.ready .joinFound ≠ true := by
  rw [Ne, ready_joinFound_iff, quiet.run]
  simp

theorem dump_not_ready : s.ready .dump ≠ true := by
  rw [Ne, ready_dump_iff, quiet.noDumpRun, quiet.noOwedDump]
  simp

theorem evict_not_ready : s.ready .evict ≠ true := by
  rw [Ne, ready_evict_iff, quiet.noEvict]
  simp

/-- R91: a ready PRESENCE is the choice when nothing is owed a channel either. -/
theorem select_presence (unowed : ∀ n, (s.chans.get n).owed = false) (ready : s.ready .presence = true) :
    s.select (allSlots.filter s.ready) = some .presence := by
  refine select_of_lowest (mem_ready.mpr ready) fun j listed other => ?_
  have here := mem_ready.mp listed
  cases j with
  | joinFound => exact absurd here quiet.joinFound_not_ready
  | dump => exact absurd here quiet.dump_not_ready
  | evict => exact absurd here quiet.evict_not_ready
  | place =>
    obtain ⟨_, ⟨n, owed⟩, _⟩ := (ready_place_iff s).mp here
    rw [unowed n] at owed
    exact absurd owed (by decide)
  | presence => exact absurd rfl other
  | report => exact of_decide_eq_true rfl
  | level k => exact of_decide_eq_true rfl

/-- R91: with no PRESENCE, REPORT or LEVEL at work either, PLACE is the one slot that can be ready. -/
theorem ready_eq_place (noPresence : s.line.slots.presenceWork = false) (noReport : s.line.slots.reportHolds = none)
    (noLevel : ∀ k, (s.line.slots.level.get k).content = none) (ready : s.ready .place = true) :
    allSlots.filter s.ready = [.place] := by
  have only : ∀ id, s.ready id = decide (id = .place) := by
    intro id
    cases id with
    | joinFound => exact Bool.eq_false_iff.mpr quiet.joinFound_not_ready
    | dump => exact Bool.eq_false_iff.mpr quiet.dump_not_ready
    | evict => exact Bool.eq_false_iff.mpr quiet.evict_not_ready
    | place => exact ready
    | presence => exact Bool.eq_false_iff.mpr (by rw [Ne, ready_presence_iff, noPresence]; simp)
    | report => exact Bool.eq_false_iff.mpr (by rw [Ne, ready_report_iff, noReport]; simp)
    | level k => exact Bool.eq_false_iff.mpr (by rw [Ne, ready_level_iff, noLevel k]; simp)
  rw [funext only]
  decide

end LowQuiet

/-! ## The reports, byte by byte -/

theorem flags_eq (f : Four Bool) :
    Four.flags f =
      (if f.get 0 = true then 1 else 0) + (if f.get 1 = true then 2 else 0) + (if f.get 2 = true then 4 else 0) +
        (if f.get 3 = true then 8 else 0) := by
  obtain ⟨a, b, c, d⟩ := f
  have digit : ∀ (k : Nat) (x : Bool), k * boolByte x = if x = true then k else 0 := by
    intro k x
    cases x <;> simp [boolByte]
  rw [Four.flags, digit, digit, digit, ← Nat.one_mul (boolByte a), digit]
  rfl

theorem flags_map {α : Type} (p : α → Bool) (f : Four α) :
    Four.flags (f.map p) =
      (if p (f.get 0) = true then 1 else 0) + (if p (f.get 1) = true then 2 else 0) +
        (if p (f.get 2) = true then 4 else 0) + (if p (f.get 3) = true then 8 else 0) := by
  simp only [flags_eq, Four.get_map]

/-- R183: the four values of one channel, the state's code first. -/
theorem channelReport_eq (s : State) (n : Num4) :
    s.channelReport n =
      if (s.chans.get n).state = .unused then [(s.chans.get n).state.code, 0, 255, 255]
      else
        [(s.chans.get n).state.code, BitVec.ofNat 8 (s.chans.get n).target] ++
          match claimOf s.engine.replica.claims s.own n with
          | some c => [BitVec.ofNat 8 c.start, BitVec.ofNat 8 c.len]
          | none => [255, 255] := by
  rw [State.channelReport]
  cases claimOf s.engine.replica.claims s.own n <;> rfl

theorem reportBody_channels (s : State) :
    s.reportBody .channels = s.channelReport 0 ++ s.channelReport 1 ++ s.channelReport 2 ++ s.channelReport 3 := by
  simp [State.reportBody, allFour]

/-! ## What the slots build -/

theorem buildFor_join {s : State} (holds : s.line.slots.joinFoundHolds = some .join) :
    s.buildFor .joinFound = (s, some (s.message 0 (.join s.stampNow s.loader.digest), none)) := by
  simp only [State.buildFor, holds]

theorem buildFor_found {s : State} (holds : s.line.slots.joinFoundHolds = some .found) :
    s.buildFor .joinFound = (s, some (s.message 0 (.found s.timer.period s.loader.digest), none)) := by
  simp only [State.buildFor, holds]

theorem buildFor_report {s : State} {q : ReportRequest} (holds : s.line.slots.reportHolds = some q) :
    s.buildFor .report = (s, some (s.message 3 (.report q.what (s.reportBody q.what)) q.querier, none)) := by
  simp only [State.buildFor, holds]

/-- R94, R95: the PLACE build, with the channels as it leaves them. -/
def State.placeBuilt (s : State) : State :=
  { s with chans := s.placeBuild.chans, freeIndex := s.placeBuild.freeIndex }

theorem buildFor_place {s : State} (entries : s.placeBuild.entries ≠ []) :
    s.buildFor .place =
      (s.placeBuilt,
        some
          (s.message (1 + lowestClass (s.placeBuild.entries.map fun e => e.cls.val))
            (.place s.stampNow s.placeBuild.entries), none)) := by
  cases built : s.placeBuild.entries with
  | nil => exact absurd built entries
  | cons e es => simp only [State.buildFor, built, State.placeBuilt]

theorem buildFor_place_nothing {s : State} (entries : s.placeBuild.entries = []) :
    s.buildFor .place = (s.placeBuilt, none) := by
  simp only [State.buildFor, entries, State.placeBuilt]

/-! ## The obligations -/

/-- Settles O20: the slot is the choice by its value, and its build is the message stated. -/
theorem attemptStartFields : Obligations.AttemptStartFields := by
  unfold Obligations.AttemptStartFields
  intro s opportunity starts flags stateByte causeByte channelBytes
  have starts_of : ∀ (id : SlotId) (priority : Fin 4) (dest : Nat) (p : Payload),
      s.select (allSlots.filter s.ready) = some id →
      s.buildFor id =
        (s, some ({ priority := priority, lock := false, source := s.own, dest := dest, payload := p }, none)) →
      starts id priority dest p :=
    fun _ _ _ _ select build => exec_attemptStart_builds opportunity select build
  have channel : ∀ n, s.channelReport n = channelBytes n := channelReport_eq s
  clear_value starts channelBytes
  refine ⟨fun alone station holds wait clear => ?_, fun alone station holds early clear => ?_,
    fun alone run inbound early work clear owedDump dumpRun evict unowed => ?_, fun q select holds => ⟨fun what => ?_, fun what => ?_⟩⟩
  · refine starts_of _ _ _ _ (select_joinFound ((ready_joinFound_iff s).mpr ?_)) (buildFor_join holds)
    exact ⟨⟨clear, (ownRun_eq_false_iff s).mp alone⟩, .inl ⟨station, holds, wait⟩⟩
  · refine starts_of _ _ _ _ (select_joinFound ((ready_joinFound_iff s).mpr ?_)) (buildFor_found holds)
    exact ⟨⟨clear, (ownRun_eq_false_iff s).mp alone⟩, .inr ⟨station, holds, early⟩⟩
  · have quiet : LowQuiet s := ⟨run, owedDump, dumpRun, evict⟩
    refine starts_of _ _ _ _ (quiet.select_presence unowed ((ready_presence_iff s).mpr ?_)) rfl
    exact ⟨run, work, inbound, early, clear, (ownRun_eq_false_iff s).mp alone⟩
  · refine starts_of _ _ _ _ select ?_
    rw [buildFor_report holds, what, reportBody_channels, channel, channel, channel, channel]
    rfl
  · refine starts_of _ _ _ _ select ?_
    rw [buildFor_report holds, what, State.reportBody, State.nodeReport, flags_map, flags_map, flags_map]
    have station : s.ctl.station.code = stateByte := by
      cases here : s.ctl.station <;> simp only [stateByte, here] <;> rfl
    have cause : s.ctl.haltCause.code = causeByte := by
      cases here : s.ctl.haltCause <;> simp only [causeByte, here] <;> rfl
    rw [station, cause]
    rfl

/-- Settles O22: PLACE is the one ready slot, so its build goes on the line or leaves the channels and nothing else. -/
theorem attemptStartPlace : Obligations.AttemptStartPlace := by
  unfold Obligations.AttemptStartPlace
  refine ⟨fun s => rfl, ?_⟩
  intro s opportunity alone run inbound cooldown clear owed owedDump dumpRun evict noPresence noReport noLevel built
  have quiet : LowQuiet s := ⟨run, owedDump, dumpRun, evict⟩
  have ready : s.ready .place = true :=
    (ready_place_iff s).mpr
      ⟨run, (Four.any_iff _ _).mp owed, inbound, cooldown, clear, (ownRun_eq_false_iff s).mp alone⟩
  have only := quiet.ready_eq_place noPresence noReport noLevel ready
  have select : s.select (allSlots.filter s.ready) = some .place := by
    rw [only]
    rfl
  constructor
  · intro entries
    exact exec_attemptStart_builds opportunity select (buildFor_place entries)
  · intro entries
    rw [exec_attemptStart opportunity, tryBuilds_passes select (buildFor_place_nothing entries), only,
      List.erase_cons_head, tryBuilds_nil, settleSlots_eq]
    rfl

end Sys2Proof.Machine
